-- ==== Sys2Proof/Word.lean ====
section
/-! DEFINITION. The bit widths of CSRSEQ (00_scope.md R7, R8, R10, R11). -/

namespace Sys2Proof

/-- A register value: one byte, moved as a whole (R7 `REG_WIDTH`, R66). -/
abbrev Byte := BitVec 8

/-- A register address constant (R7 `REG_ADDR_WIDTH`). -/
abbrev RegAddr := BitVec 8

/-- A 7-bit bus device address (R7 `DEV_ADDR`, R63 (a)). -/
abbrev DevAddr := BitVec 7

/-- A SEQ command word (R8 `CMD_WIDTH`, R80). -/
abbrev CmdWord := BitVec 32

/-- The `REG` field of a command word (R82). -/
abbrev RegIndex := BitVec 4

/-- The CODEC function select (R8 `FN_WIDTH`, R92). -/
abbrev FnSel := BitVec 4

/-- The `ichg` code (R7 `ICHG_WIDTH`, R33). -/
abbrev IchgCode := BitVec 5

/-- Unsigned milliamps (R8 `MA_WIDTH`); also the width of `S.RESP.DATA` (R24). -/
abbrev Half := BitVec 16

end Sys2Proof
end

