-- ==== Sys2Proof/Config.lean ====
section
/-! DEFINITION. The parameters of CSRSEQ: the fixed ones (00_scope.md R7) and the open type parameter `BusError` (R8). -/

namespace Sys2Proof

/-- Which tokens are the transport's error values: R8's parameter, OPEN (93 U2: "a type the model takes as an argument").
It has no body, so no proof can say which it holds of or how many there are (log entry 5). -/
opaque Config.isBusError : Nat → Bool

/-- `BusError` (R8, R190, 93 U2): the type of the transport's errors, cut out by the parameter; copied verbatim and never
inspected. Token 0 is in it whatever the parameter says, so that the type is not empty: DESIGN CHOICE (log entry 5), safe. -/
structure BusError where
  token : Nat
  legal : token = 0 ∨ Config.isBusError token = true
deriving DecidableEq, Repr

/-- The one error value that can be named, for witnesses (log entry 5). -/
def BusError.first : BusError := ⟨0, .inl rfl⟩

namespace Config

/-- The charger's bus address (R7, R63). -/
abbrev devAddr : DevAddr := 0x6B#7

/-- Registers 0x00 to 0x0A exist: eleven (R7 `REG_ADDRS`, R30). -/
abbrev regCount : Nat := 11

/-- Registers 0x00 to 0x07 may be updated; 0x08 to 0x0A are read-only (R31, R62). -/
abbrev writableCount : Nat := 8

/-- Milliamps at `ichg` = 0 (R7). -/
abbrev ichgBaseMa : Nat := 512

/-- Milliamps per `ichg` step (R7). -/
abbrev ichgStepMa : Nat := 64

/-- Lower clamp of the milliamp input (R7). -/
abbrev maClampLo : Nat := 512

/-- Upper clamp of the milliamp input (R7). -/
abbrev maClampHi : Nat := 2048

/-- The value a host expects of register 0x0A (R7, R37, R225); CSRSEQ itself never compares. -/
abbrev idExpected : Byte := 0x20#8

end Config
end Sys2Proof
end

