-- ==== Sys2Proof/Syntax.lean ====
section
/-! DEFINITION. The instructions: one constructor per row of spec/opcode_table.json (30_encoding.md R81, R92), the
refusal verdicts (60_exceptions.md R193) and the register names (30_encoding.md R95). -/

namespace Sys2Proof

/-- An instruction: a SEQ command with the operands its word carries (R85), or a CODEC function, whose operands come on
CODEC's typed ports and not in the select (R92). -/
inductive Instr where
  /-- `READ reg` (R150). -/
  | read (reg : RegIndex)
  /-- `UPDATE reg, mask, data` (R151). -/
  | update (reg : RegIndex) (mask data : Byte)
  /-- `DISABLE_WATCHDOG` (R156). -/
  | disableWatchdog
  /-- `RESET_WATCHDOG` (R157). -/
  | resetWatchdog
  /-- `STATUS` (R158). -/
  | status
  /-- `NEW_FAULT` (R159). -/
  | newFault
  /-- `GET_ICHG_MA` (R160). -/
  | getIchgMa
  /-- `SET_ICHG_MA milliamps` (R161). -/
  | setIchgMa (milliamps : Half)
  /-- `DEC_POC` (R118). -/
  | decPoc
  /-- `ENC_POC` (R119). -/
  | encPoc
  /-- `DEC_CCC` (R120). -/
  | decCcc
  /-- `ENC_CCC` (R121). -/
  | encCcc
  /-- `DEC_TTC` (R122). -/
  | decTtc
  /-- `ENC_TTC` (R123). -/
  | encTtc
  /-- `DEC_SS` (R126). -/
  | decSs
  /-- `ENC_SS` (R127). -/
  | encSs
  /-- `DEC_NF` (R128). -/
  | decNf
  /-- `ENC_NF` (R129). -/
  | encNf
  /-- `ICHG_TO_MA` (R130). -/
  | ichgToMa
  /-- `MA_TO_ICHG` (R131). -/
  | maToIchg
deriving DecidableEq, Repr

/-- Why the decoder refuses a command word (R90, R193). -/
inductive RefusalCode where
  | OPCODE
  | FORMAT
  | REG
  | RO
deriving DecidableEq, Repr

/-- Why a function select names no CODEC function (R136: "codec function reserved"). -/
inductive CodecReject where
  | codecFunctionReserved
deriving DecidableEq, Repr

/-- What spells an instruction: a word on the command port (R80), or a select on CODEC's function port (R92). -/
inductive Spelling where
  | command (w : CmdWord)
  | codec (fn : FnSel)
deriving DecidableEq, Repr

/-- The eleven registers, by the assembler's symbols (R30, R95). -/
inductive RegName where
  | ISC | POC | CCC | PCT | CVC | TTC | BTR | MOC | SS | NF | VPR
deriving DecidableEq, Repr

end Sys2Proof
end

