-- ==== Sys2Proof/WellFormed.lean ====
section
/-! DEFINITION. Which instruction terms a word can spell (30_encoding.md R82, R89). -/

namespace Sys2Proof

/-- `READ` names registers 0 to 10 and `UPDATE` registers 0 to 7 (R82, R89); every other operand is legal at every value
(R83, R84), and the other instructions carry none. -/
def Instr.wellFormed : Instr → Bool
  | .read reg => decide (reg.toNat < Config.regCount)
  | .update reg _ _ => decide (reg.toNat < Config.writableCount)
  | .disableWatchdog => true
  | .resetWatchdog => true
  | .status => true
  | .newFault => true
  | .getIchgMa => true
  | .setIchgMa _ => true
  | .decPoc => true
  | .encPoc => true
  | .decCcc => true
  | .encCcc => true
  | .decTtc => true
  | .encTtc => true
  | .decSs => true
  | .encSs => true
  | .decNf => true
  | .encNf => true
  | .ichgToMa => true
  | .maToIchg => true

end Sys2Proof
end

