-- ==== Sys2Proof/Decode.lean ====
section
/-! DEFINITION. The command decoder (30_encoding.md R80 to R91), the CODEC function select (R92, R136), and after them the
encoder. Both decoders are total and reject by name. -/

namespace Sys2Proof

/-- `OP`, bits [31:28] (R80). -/
def opField (w : CmdWord) : BitVec 4 := w.extractLsb' 28 4

/-- `REG`, bits [27:24] (R80, R82). -/
def regField (w : CmdWord) : RegIndex := w.extractLsb' 24 4

/-- `MASK`, bits [23:16] (R80, R83). -/
def maskField (w : CmdWord) : Byte := w.extractLsb' 16 8

/-- `OPERAND`, bits [15:0] (R80, R84). -/
def operandField (w : CmdWord) : Half := w.extractLsb' 0 16

/-- `DATA = OPERAND[7:0]` of an UPDATE (R84). -/
def dataField (w : CmdWord) : Byte := w.extractLsb' 0 8

/-- The should-be-zero bits of a command word, by `OP` (the "sbz" cells of R85); reserved `OP`s have none. -/
def sbzMask (op : BitVec 4) : CmdWord :=
  match op.toNat with
  | 0 => 0x00FFFFFF#32
  | 1 => 0x0000FF00#32
  | 2 => 0x0FFFFFFF#32
  | 3 => 0x0FFFFFFF#32
  | 4 => 0x0FFFFFFF#32
  | 5 => 0x0FFFFFFF#32
  | 6 => 0x0FFFFFFF#32
  | 7 => 0x0FFF0000#32
  | _ => 0#32

/-- The command an `OP` names, with the operands its word carries, when every check has passed (R81, R85, R86). -/
def commandOf (w : CmdWord) : Except RefusalCode Instr :=
  match (opField w).toNat with
  | 0 => .ok (.read (regField w))
  | 1 => .ok (.update (regField w) (maskField w) (dataField w))
  | 2 => .ok .disableWatchdog
  | 3 => .ok .resetWatchdog
  | 4 => .ok .status
  | 5 => .ok .newFault
  | 6 => .ok .getIchgMa
  | 7 => .ok (.setIchgMa (operandField w))
  | _ => .error .OPCODE

/-- The command decoder, total on all 2^32 words; its checks in the order of R90. -/
def decodeCommand (w : CmdWord) : Except RefusalCode Instr :=
  if 8 ≤ (opField w).toNat then .error .OPCODE
  else if w &&& sbzMask (opField w) ≠ 0#32 then .error .FORMAT
  else if opField w = 0#4 ∧ 10 < (regField w).toNat then .error .REG
  else if opField w = 1#4 ∧ 10 < (regField w).toNat then .error .REG
  else if opField w = 1#4 ∧ 8 ≤ (regField w).toNat then .error .RO
  else commandOf w

/-- The CODEC function select (R92); 0xC to 0xF select no function (R136). -/
def decodeFn (fn : FnSel) : Except CodecReject Instr :=
  match fn.toNat with
  | 0x0 => .ok .decPoc
  | 0x1 => .ok .encPoc
  | 0x2 => .ok .decCcc
  | 0x3 => .ok .encCcc
  | 0x4 => .ok .decTtc
  | 0x5 => .ok .encTtc
  | 0x6 => .ok .decSs
  | 0x7 => .ok .encSs
  | 0x8 => .ok .decNf
  | 0x9 => .ok .encNf
  | 0xA => .ok .ichgToMa
  | 0xB => .ok .maToIchg
  | _ => .error .codecFunctionReserved

/-- The instruction a spelling names, if it names one. -/
def decode : Spelling → Option Instr
  | .command w => (decodeCommand w).toOption
  | .codec fn => (decodeFn fn).toOption

/-- A command word from its four fields, most significant first (R80). -/
def packWord (op : BitVec 4) (reg : RegIndex) (mask : Byte) (operand : Half) : CmdWord :=
  op ++ reg ++ mask ++ operand

/-- The spelling of an instruction, from R81, R85 and R92. -/
def encode : Instr → Spelling
  | .read reg => .command (packWord 0x0#4 reg 0#8 0#16)
  | .update reg mask data => .command (packWord 0x1#4 reg mask (data.setWidth 16))
  | .disableWatchdog => .command (packWord 0x2#4 0#4 0#8 0#16)
  | .resetWatchdog => .command (packWord 0x3#4 0#4 0#8 0#16)
  | .status => .command (packWord 0x4#4 0#4 0#8 0#16)
  | .newFault => .command (packWord 0x5#4 0#4 0#8 0#16)
  | .getIchgMa => .command (packWord 0x6#4 0#4 0#8 0#16)
  | .setIchgMa milliamps => .command (packWord 0x7#4 0#4 0#8 milliamps)
  | .decPoc => .codec 0x0#4
  | .encPoc => .codec 0x1#4
  | .decCcc => .codec 0x2#4
  | .encCcc => .codec 0x3#4
  | .decTtc => .codec 0x4#4
  | .encTtc => .codec 0x5#4
  | .decSs => .codec 0x6#4
  | .encSs => .codec 0x7#4
  | .decNf => .codec 0x8#4
  | .encNf => .codec 0x9#4
  | .ichgToMa => .codec 0xA#4
  | .maToIchg => .codec 0xB#4

/-- The port a row of spec/opcode_table.json belongs to, by the bits the table gives it: a 4-bit function select arrives as
at most one whole byte, a command word is wider (R80, R92); bits above the port's width must be zero. -/
def tableSpelling (nbits w : Nat) : Option Spelling :=
  if nbits ≤ 8 then
    if w < 16 then some (.codec (BitVec.ofNat 4 w)) else none
  else if w < 2 ^ 32 then some (.command (BitVec.ofNat 32 w)) else none

/-- The instruction the decoder reads from a word laid out as spec/opcode_table.json numbers its bits. -/
def decodeTableWord (nbits w : Nat) : Option Instr :=
  (tableSpelling nbits w).bind decode

end Sys2Proof
end

