-- ==== Sys2Proof/Machine/Views.lean ====
section
/-! DEFINITION. The six closed enumerations (10_state.md R40 to R45), the typed views of the five decoded registers
(R32 to R36, 00_scope.md R13), and CODEC's ports (30_encoding.md R92). Types only. -/

namespace Sys2Proof.Machine

/-- R40. -/
inductive BoostLim where
  | A1_0 | A1_5
deriving DecidableEq, Repr

/-- R41. -/
inductive ChgTimer where
  | H5 | H8 | H12 | H20
deriving DecidableEq, Repr

/-- R42. -/
inductive Watchdog where
  | Disabled | S40 | S80 | S160
deriving DecidableEq, Repr

/-- R43. -/
inductive Vbus where
  | Unknown | UsbHost | AdapterPort | Otg
deriving DecidableEq, Repr

/-- R44. -/
inductive Chrg where
  | NotCharging | PreCharge | FastCharging | ChargeTermination
deriving DecidableEq, Repr

/-- R45. -/
inductive ChrgFault where
  | Normal | InputFault | ThermalShutdown | ChargeTimerExpiration
deriving DecidableEq, Repr

/-- Power-On Configuration, 0x01 (R32). -/
structure PocView where
  boost_current_limit : BoostLim
  sys_min : BitVec 3
  en_charge : Bool
  en_otg : Bool
  watchdog_reset : Bool
  register_reset : Bool
deriving DecidableEq, Repr

/-- Charge Current Control, 0x02 (R33). -/
structure CccView where
  force_20pct : Bool
  bcold : Bool
  ichg : IchgCode
  reserved7 : BitVec 1
deriving DecidableEq, Repr

/-- Charge Termination/Timer Control, 0x05 (R34). -/
structure TtcView where
  reserved0 : BitVec 1
  charge_timer : ChgTimer
  en_timer : Bool
  watchdog : Watchdog
  reserved6 : BitVec 1
  en_term : Bool
deriving DecidableEq, Repr

/-- System Status, 0x08 (R35). -/
structure SsView where
  vsys : Bool
  therm : Bool
  pg : Bool
  dpm : Bool
  chrg : Chrg
  vbus : Vbus
deriving DecidableEq, Repr

/-- New Fault, 0x09 (R36). -/
structure NfView where
  ntc_hot : Bool
  ntc_cold : Bool
  reserved2 : BitVec 1
  bat_fault : Bool
  chrg_fault : ChrgFault
  otg_fault : Bool
  watchdog_expired : Bool
deriving DecidableEq, Repr

/-- A field of Power-On Configuration with a value of its type (R32, R137). -/
inductive PocSet where
  | boost_current_limit (x : BoostLim)
  | sys_min (x : BitVec 3)
  | en_charge (x : Bool)
  | en_otg (x : Bool)
  | watchdog_reset (x : Bool)
  | register_reset (x : Bool)
deriving DecidableEq, Repr

/-- A field of Charge Current Control with a value of its type (R33, R137). -/
inductive CccSet where
  | force_20pct (x : Bool)
  | bcold (x : Bool)
  | ichg (x : IchgCode)
  | reserved7 (x : BitVec 1)
deriving DecidableEq, Repr

/-- A field of Charge Termination/Timer Control with a value of its type (R34, R137). -/
inductive TtcSet where
  | reserved0 (x : BitVec 1)
  | charge_timer (x : ChgTimer)
  | en_timer (x : Bool)
  | watchdog (x : Watchdog)
  | reserved6 (x : BitVec 1)
  | en_term (x : Bool)
deriving DecidableEq, Repr

/-- A field of System Status with a value of its type (R35, R134); never written by SEQ (R125). -/
inductive SsSet where
  | vsys (x : Bool)
  | therm (x : Bool)
  | pg (x : Bool)
  | dpm (x : Bool)
  | chrg (x : Chrg)
  | vbus (x : Vbus)
deriving DecidableEq, Repr

/-- A field of New Fault with a value of its type (R36, R134); never written by SEQ (R125). -/
inductive NfSet where
  | ntc_hot (x : Bool)
  | ntc_cold (x : Bool)
  | reserved2 (x : BitVec 1)
  | bat_fault (x : Bool)
  | chrg_fault (x : ChrgFault)
  | otg_fault (x : Bool)
  | watchdog_expired (x : Bool)
deriving DecidableEq, Repr

/-- A field of any decoded register, with the value to set (R134). -/
inductive FieldSet where
  | poc (f : PocSet)
  | ccc (f : CccSet)
  | ttc (f : TtcSet)
  | ss (f : SsSet)
  | nf (f : NfSet)
deriving DecidableEq, Repr

/-- The typed view a response carries: System Status or New Fault (R24 `VIEW`, R165). -/
inductive RespView where
  | ss (v : SsView)
  | nf (v : NfView)
deriving DecidableEq, Repr

/-- What the host drives on CODEC's typed input ports: `BIN`, one view port per layout, `IIN` and `MIN` (R92). -/
structure CodecIn where
  bin : Byte
  poc : PocView
  ccc : CccView
  ttc : TtcView
  ss : SsView
  nf : NfView
  iin : IchgCode
  min : Half
deriving DecidableEq, Repr

/-- What CODEC presents on the output port of the selected function: a view, `BOUT`, `MOUT` or `IOUT` (R92). -/
inductive CodecOut where
  | poc (v : PocView)
  | ccc (v : CccView)
  | ttc (v : TtcView)
  | ss (v : SsView)
  | nf (v : NfView)
  | bout (b : Byte)
  | mout (ma : Half)
  | iout (c : IchgCode)
deriving DecidableEq, Repr

end Sys2Proof.Machine
end

