-- ==== Sys2Proof/Machine/State.lean ====
section
/-! DEFINITION. The state of CSRSEQ (10_state.md Part A), the events that drive it (42_sequencer.md R155), the reasons a
step can stop, and the state after reset (R29). -/

namespace Sys2Proof.Machine

/-- `S.PHASE`: no other phase exists (R22). -/
inductive Phase where
  /-- `IDLE`: no command in progress. -/
  | idle
  /-- `RD_WAIT`: the read is issued and not answered. -/
  | rdWait
  /-- `WR_WAIT`: the write is issued and not answered. -/
  | wrWait
deriving DecidableEq, Repr

/-- The answer to a read transaction: any byte, or any error (R60, R61, R67). -/
inductive ReadResult where
  | ok (b : Byte)
  | err (e : BusError)
deriving DecidableEq, Repr

/-- The answer to a write transaction (R60, R62). -/
inductive WriteResult where
  | ok
  | err (e : BusError)
deriving DecidableEq, Repr

/-- An entry of the trace `T` (R25). An answer of `none` is the spec's `pending`. -/
inductive Entry where
  | rd (dev : DevAddr) (a : RegAddr) (answer : Option ReadResult)
  | wr (dev : DevAddr) (a : RegAddr) (v : Byte) (answer : Option WriteResult)
deriving DecidableEq, Repr

/-- `S.RESP` when it is not *none* (R24). `status` is the 2-bit word a host reads, so 3 is a value of the type and that it
is never produced is a statement (U13). -/
structure Resp where
  status : BitVec 2
  data : Half
  err : Option BusError
  view : Option RespView
deriving DecidableEq, Repr

/-- What can happen next: the six events of SEQ (R155), and a use of CODEC by the host (R92, R93). -/
inductive Event where
  /-- The host presents a command word. -/
  | accept (w : CmdWord)
  /-- The transport answers the read. -/
  | readAnswer (r : ReadResult)
  /-- The transport answers the write. -/
  | writeAnswer (r : WriteResult)
  /-- CSRSEQ is reset (R220). -/
  | reset
  /-- The host selects a CODEC function and drives the typed input ports. -/
  | codec (fn : FnSel) (ins : CodecIn)
deriving DecidableEq, Repr

/-- The machine. `phase` to `resp` are SEQ's own state; `trace` is the run's observation. `codecIn` and `codecOut` are
CODEC's ports: CODEC holds no state (R27) and no step reads `codecOut`. `hostIndex` is the host's index `k` (R21).
`script` is the model's own field: what the host and the environment do next, in order (R202; log entry 1). -/
structure State where
  /-- `S.PHASE` (R22). -/
  phase : Phase
  /-- `S.CMD` (R23); `none` is "no value". -/
  cmd : Option CmdWord
  /-- `S.OLD` (R23). -/
  old : Option Byte
  /-- `S.NEW` (R23). -/
  new : Option Byte
  /-- `S.RESP` (R24). -/
  resp : Option Resp
  /-- `T`, oldest first (R25). -/
  trace : List Entry
  /-- CODEC's input ports (R92). -/
  codecIn : CodecIn
  /-- CODEC's output ports, as last presented (R92). -/
  codecOut : Option CodecOut
  /-- `k`: responses returned so far (R21). -/
  hostIndex : Nat
  /-- The events still to come. -/
  script : List Event
deriving DecidableEq, Repr

/-- A latch of SEQ (R23). -/
inductive Latch where
  | CMD | OLD | NEW
deriving DecidableEq, Repr

/-- Why the machine stops with a fault. -/
inductive Fault where
  /-- Raised by `Machine.acceptEvent`: the host presents a command while one is in progress (R154, R205). 93 U8 lets a model
  "treat it as fault"; it has no such run otherwise. Safe. -/
  | commandWhileBusy
  /-- Raised by `Machine.useLatch`: a latch is read outside the window in which it holds a value, the modelling error of
  R23 and 93 U12. Safe; no state that meets `SeqInv` raises it. -/
  | latchHoldsNoValue (l : Latch)
  /-- Raised by `Machine.readSeq`: a read command in `WR_WAIT`. A read sequence has no write (R22, R153), so the state is
  one the spec does not have. Safe; no state that meets `SeqInv` raises it. -/
  | readCommandInWriteWait
  /-- Raised by `Machine.resume`: in a wait phase `S.CMD` holds a word that names no command. Such a word is refused at
  acceptance and never starts (R154), so the state is one the spec does not have. Safe; no state that meets `SeqInv`
  raises it. -/
  | latchedWordNamesNoCommand
deriving DecidableEq, Repr

/-- Why the model gives no meaning. -/
inductive Refusal where
  /-- Raised by `exec` for an instruction that has no meaning yet. Safe. -/
  | notModelled (mnemonic : String)
  /-- Raised by `Machine.codecEvent`: a select of 0xC to 0xF, for which "CODEC gives no output ..., and a model refuses it"
  (R136). Safe. -/
  | codecFunctionReserved (fn : FnSel)
deriving DecidableEq, Repr

/-- The three outcomes of a step of this machine. -/
abbrev StepOutcome := Host.Outcome State Fault Refusal

/-- The ports before the host has driven them: every one zero, the views those of byte 0x00. The spec gives no value:
DESIGN CHOICE (log entry 6), unsafe. -/
def CodecIn.undriven : CodecIn where
  bin := 0x00#8
  poc := ⟨.A1_0, 0#3, false, false, false, false⟩
  ccc := ⟨false, false, 0#5, 0#1⟩
  ttc := ⟨0#1, .H5, false, .Disabled, 0#1, false⟩
  ss := ⟨false, false, false, false, .NotCharging, .Unknown⟩
  nf := ⟨false, false, 0#1, false, .Normal, false, false⟩
  iin := 0#5
  min := 0#16

/-- The machine right after reset, at the start of a run (R29, R220): SEQ's fields as the spec says, an empty trace,
`k` = 0 (R21); the ports and the empty script are the model's (log entries 1, 6, 12). -/
def State.reset : State where
  phase := .idle
  cmd := none
  old := none
  new := none
  resp := none
  trace := []
  codecIn := CodecIn.undriven
  codecOut := none
  hostIndex := 0
  script := []

end Sys2Proof.Machine
end

