-- ==== Sys2Proof/Machine/Codec.lean ====
section
/-! DEFINITION. CODEC, the register codec (41_codec.md): the enumeration codecs (R111 to R116), the register decoders and
encoders (R118 to R129), the unit converters (R130, R131) and the field-set mutator (R137). Every function is pure and
total (R110). -/

namespace Sys2Proof.Machine

/-! Enumerations. A 2-bit code is matched as its two bits, high bit first, on every pattern and with no wildcard. -/

/-- R111. -/
def decBoostLim (c : BitVec 1) : BoostLim :=
  match c.getLsbD 0 with
  | false => .A1_0
  | true => .A1_5

/-- R111. -/
def encBoostLim : BoostLim → BitVec 1
  | .A1_0 => 0#1
  | .A1_5 => 1#1

/-- R112. -/
def decChgTimer (c : BitVec 2) : ChgTimer :=
  match c.getLsbD 1, c.getLsbD 0 with
  | false, false => .H5
  | false, true => .H8
  | true, false => .H12
  | true, true => .H20

/-- R112. -/
def encChgTimer : ChgTimer → BitVec 2
  | .H5 => 0#2
  | .H8 => 1#2
  | .H12 => 2#2
  | .H20 => 3#2

/-- R113. -/
def decWatchdog (c : BitVec 2) : Watchdog :=
  match c.getLsbD 1, c.getLsbD 0 with
  | false, false => .Disabled
  | false, true => .S40
  | true, false => .S80
  | true, true => .S160

/-- R113. -/
def encWatchdog : Watchdog → BitVec 2
  | .Disabled => 0#2
  | .S40 => 1#2
  | .S80 => 2#2
  | .S160 => 3#2

/-- R114. -/
def decVbus (c : BitVec 2) : Vbus :=
  match c.getLsbD 1, c.getLsbD 0 with
  | false, false => .Unknown
  | false, true => .UsbHost
  | true, false => .AdapterPort
  | true, true => .Otg

/-- R114. -/
def encVbus : Vbus → BitVec 2
  | .Unknown => 0#2
  | .UsbHost => 1#2
  | .AdapterPort => 2#2
  | .Otg => 3#2

/-- R115. -/
def decChrg (c : BitVec 2) : Chrg :=
  match c.getLsbD 1, c.getLsbD 0 with
  | false, false => .NotCharging
  | false, true => .PreCharge
  | true, false => .FastCharging
  | true, true => .ChargeTermination

/-- R115. -/
def encChrg : Chrg → BitVec 2
  | .NotCharging => 0#2
  | .PreCharge => 1#2
  | .FastCharging => 2#2
  | .ChargeTermination => 3#2

/-- R116. -/
def decChrgFault (c : BitVec 2) : ChrgFault :=
  match c.getLsbD 1, c.getLsbD 0 with
  | false, false => .Normal
  | false, true => .InputFault
  | true, false => .ThermalShutdown
  | true, true => .ChargeTimerExpiration

/-- R116. -/
def encChrgFault : ChrgFault → BitVec 2
  | .Normal => 0#2
  | .InputFault => 1#2
  | .ThermalShutdown => 2#2
  | .ChargeTimerExpiration => 3#2

/-! Registers. `bit(true) = 1` and `bit(false) = 0` (R119). -/

/-- `bit` of R119. -/
def bit (x : Bool) : BitVec 1 := BitVec.ofBool x

/-- `DEC_POC` (R118). -/
def decPoc (b : Byte) : PocView where
  boost_current_limit := decBoostLim (b.extractLsb' 0 1)
  sys_min := b.extractLsb' 1 3
  en_charge := b.getLsbD 4
  en_otg := b.getLsbD 5
  watchdog_reset := b.getLsbD 6
  register_reset := b.getLsbD 7

/-- `ENC_POC` (R119). -/
def encPoc (v : PocView) : Byte :=
  bit v.register_reset ++ bit v.watchdog_reset ++ bit v.en_otg ++ bit v.en_charge ++ v.sys_min
    ++ encBoostLim v.boost_current_limit

/-- `DEC_CCC` (R120). -/
def decCcc (b : Byte) : CccView where
  force_20pct := b.getLsbD 0
  bcold := b.getLsbD 1
  ichg := b.extractLsb' 2 5
  reserved7 := b.extractLsb' 7 1

/-- `ENC_CCC` (R121). -/
def encCcc (v : CccView) : Byte :=
  v.reserved7 ++ v.ichg ++ bit v.bcold ++ bit v.force_20pct

/-- `DEC_TTC` (R122). -/
def decTtc (b : Byte) : TtcView where
  reserved0 := b.extractLsb' 0 1
  charge_timer := decChgTimer (b.extractLsb' 1 2)
  en_timer := b.getLsbD 3
  watchdog := decWatchdog (b.extractLsb' 4 2)
  reserved6 := b.extractLsb' 6 1
  en_term := b.getLsbD 7

/-- `ENC_TTC` (R123). -/
def encTtc (v : TtcView) : Byte :=
  bit v.en_term ++ v.reserved6 ++ encWatchdog v.watchdog ++ bit v.en_timer ++ encChgTimer v.charge_timer ++ v.reserved0

/-- `DEC_SS` (R126). -/
def decSs (b : Byte) : SsView where
  vsys := b.getLsbD 0
  therm := b.getLsbD 1
  pg := b.getLsbD 2
  dpm := b.getLsbD 3
  chrg := decChrg (b.extractLsb' 4 2)
  vbus := decVbus (b.extractLsb' 6 2)

/-- `ENC_SS` (R127). -/
def encSs (v : SsView) : Byte :=
  encVbus v.vbus ++ encChrg v.chrg ++ bit v.dpm ++ bit v.pg ++ bit v.therm ++ bit v.vsys

/-- `DEC_NF` (R128). -/
def decNf (b : Byte) : NfView where
  ntc_hot := b.getLsbD 0
  ntc_cold := b.getLsbD 1
  reserved2 := b.extractLsb' 2 1
  bat_fault := b.getLsbD 3
  chrg_fault := decChrgFault (b.extractLsb' 4 2)
  otg_fault := b.getLsbD 6
  watchdog_expired := b.getLsbD 7

/-- `ENC_NF` (R129). -/
def encNf (v : NfView) : Byte :=
  bit v.watchdog_expired ++ bit v.otg_fault ++ encChrgFault v.chrg_fault ++ bit v.bat_fault ++ v.reserved2
    ++ bit v.ntc_cold ++ bit v.ntc_hot

/-! Unit conversion, over unbounded natural numbers (R11) and narrowed at the end. -/

/-- `ICHG_TO_MA` (R130): all 32 codes, not clamped. -/
def ichgToMa (c : IchgCode) : Half :=
  BitVec.ofNat 16 (c.toNat * Config.ichgStepMa + Config.ichgBaseMa)

/-- `MA_TO_ICHG` (R131): clamp, then truncating division. -/
def maToIchg (m : Half) : IchgCode :=
  BitVec.ofNat 5 ((min (max m.toNat Config.maClampLo) Config.maClampHi - Config.ichgBaseMa) / Config.ichgStepMa)

/-! Fields: the mask and lowest bit of each (R48), the raw code of a value, and the view with the field replaced. -/

/-- Masks of 0x01 (R48). -/
def PocSet.mask : PocSet → Byte
  | .boost_current_limit _ => 0x01#8
  | .sys_min _ => 0x0E#8
  | .en_charge _ => 0x10#8
  | .en_otg _ => 0x20#8
  | .watchdog_reset _ => 0x40#8
  | .register_reset _ => 0x80#8

/-- Lowest bits of 0x01 (R32). -/
def PocSet.lo : PocSet → Nat
  | .boost_current_limit _ => 0
  | .sys_min _ => 1
  | .en_charge _ => 4
  | .en_otg _ => 5
  | .watchdog_reset _ => 6
  | .register_reset _ => 7

/-- `code` of a value of a field of 0x01 (R96, R134). -/
def PocSet.code : PocSet → Byte
  | .boost_current_limit x => (encBoostLim x).setWidth 8
  | .sys_min x => x.setWidth 8
  | .en_charge x => (bit x).setWidth 8
  | .en_otg x => (bit x).setWidth 8
  | .watchdog_reset x => (bit x).setWidth 8
  | .register_reset x => (bit x).setWidth 8

/-- `v[f := x]` for 0x01 (R137). -/
def PocSet.apply (v : PocView) : PocSet → PocView
  | .boost_current_limit x => { v with boost_current_limit := x }
  | .sys_min x => { v with sys_min := x }
  | .en_charge x => { v with en_charge := x }
  | .en_otg x => { v with en_otg := x }
  | .watchdog_reset x => { v with watchdog_reset := x }
  | .register_reset x => { v with register_reset := x }

/-- Masks of 0x02 (R48). -/
def CccSet.mask : CccSet → Byte
  | .force_20pct _ => 0x01#8
  | .bcold _ => 0x02#8
  | .ichg _ => 0x7C#8
  | .reserved7 _ => 0x80#8

/-- Lowest bits of 0x02 (R33). -/
def CccSet.lo : CccSet → Nat
  | .force_20pct _ => 0
  | .bcold _ => 1
  | .ichg _ => 2
  | .reserved7 _ => 7

/-- `code` of a value of a field of 0x02. -/
def CccSet.code : CccSet → Byte
  | .force_20pct x => (bit x).setWidth 8
  | .bcold x => (bit x).setWidth 8
  | .ichg x => x.setWidth 8
  | .reserved7 x => x.setWidth 8

/-- `v[f := x]` for 0x02. -/
def CccSet.apply (v : CccView) : CccSet → CccView
  | .force_20pct x => { v with force_20pct := x }
  | .bcold x => { v with bcold := x }
  | .ichg x => { v with ichg := x }
  | .reserved7 x => { v with reserved7 := x }

/-- Masks of 0x05 (R48). -/
def TtcSet.mask : TtcSet → Byte
  | .reserved0 _ => 0x01#8
  | .charge_timer _ => 0x06#8
  | .en_timer _ => 0x08#8
  | .watchdog _ => 0x30#8
  | .reserved6 _ => 0x40#8
  | .en_term _ => 0x80#8

/-- Lowest bits of 0x05 (R34). -/
def TtcSet.lo : TtcSet → Nat
  | .reserved0 _ => 0
  | .charge_timer _ => 1
  | .en_timer _ => 3
  | .watchdog _ => 4
  | .reserved6 _ => 6
  | .en_term _ => 7

/-- `code` of a value of a field of 0x05. -/
def TtcSet.code : TtcSet → Byte
  | .reserved0 x => x.setWidth 8
  | .charge_timer x => (encChgTimer x).setWidth 8
  | .en_timer x => (bit x).setWidth 8
  | .watchdog x => (encWatchdog x).setWidth 8
  | .reserved6 x => x.setWidth 8
  | .en_term x => (bit x).setWidth 8

/-- `v[f := x]` for 0x05. -/
def TtcSet.apply (v : TtcView) : TtcSet → TtcView
  | .reserved0 x => { v with reserved0 := x }
  | .charge_timer x => { v with charge_timer := x }
  | .en_timer x => { v with en_timer := x }
  | .watchdog x => { v with watchdog := x }
  | .reserved6 x => { v with reserved6 := x }
  | .en_term x => { v with en_term := x }

/-- Masks of 0x08 (R48). -/
def SsSet.mask : SsSet → Byte
  | .vsys _ => 0x01#8
  | .therm _ => 0x02#8
  | .pg _ => 0x04#8
  | .dpm _ => 0x08#8
  | .chrg _ => 0x30#8
  | .vbus _ => 0xC0#8

/-- Lowest bits of 0x08 (R35). -/
def SsSet.lo : SsSet → Nat
  | .vsys _ => 0
  | .therm _ => 1
  | .pg _ => 2
  | .dpm _ => 3
  | .chrg _ => 4
  | .vbus _ => 6

/-- `code` of a value of a field of 0x08. -/
def SsSet.code : SsSet → Byte
  | .vsys x => (bit x).setWidth 8
  | .therm x => (bit x).setWidth 8
  | .pg x => (bit x).setWidth 8
  | .dpm x => (bit x).setWidth 8
  | .chrg x => (encChrg x).setWidth 8
  | .vbus x => (encVbus x).setWidth 8

/-- `v[f := x]` for 0x08. -/
def SsSet.apply (v : SsView) : SsSet → SsView
  | .vsys x => { v with vsys := x }
  | .therm x => { v with therm := x }
  | .pg x => { v with pg := x }
  | .dpm x => { v with dpm := x }
  | .chrg x => { v with chrg := x }
  | .vbus x => { v with vbus := x }

/-- Masks of 0x09 (R48). -/
def NfSet.mask : NfSet → Byte
  | .ntc_hot _ => 0x01#8
  | .ntc_cold _ => 0x02#8
  | .reserved2 _ => 0x04#8
  | .bat_fault _ => 0x08#8
  | .chrg_fault _ => 0x30#8
  | .otg_fault _ => 0x40#8
  | .watchdog_expired _ => 0x80#8

/-- Lowest bits of 0x09 (R36). -/
def NfSet.lo : NfSet → Nat
  | .ntc_hot _ => 0
  | .ntc_cold _ => 1
  | .reserved2 _ => 2
  | .bat_fault _ => 3
  | .chrg_fault _ => 4
  | .otg_fault _ => 6
  | .watchdog_expired _ => 7

/-- `code` of a value of a field of 0x09. -/
def NfSet.code : NfSet → Byte
  | .ntc_hot x => (bit x).setWidth 8
  | .ntc_cold x => (bit x).setWidth 8
  | .reserved2 x => x.setWidth 8
  | .bat_fault x => (bit x).setWidth 8
  | .chrg_fault x => (encChrgFault x).setWidth 8
  | .otg_fault x => (bit x).setWidth 8
  | .watchdog_expired x => (bit x).setWidth 8

/-- `v[f := x]` for 0x09. -/
def NfSet.apply (v : NfView) : NfSet → NfView
  | .ntc_hot x => { v with ntc_hot := x }
  | .ntc_cold x => { v with ntc_cold := x }
  | .reserved2 x => { v with reserved2 := x }
  | .bat_fault x => { v with bat_fault := x }
  | .chrg_fault x => { v with chrg_fault := x }
  | .otg_fault x => { v with otg_fault := x }
  | .watchdog_expired x => { v with watchdog_expired := x }

/-- The register a field belongs to. -/
def FieldSet.reg : FieldSet → RegName
  | .poc _ => .POC
  | .ccc _ => .CCC
  | .ttc _ => .TTC
  | .ss _ => .SS
  | .nf _ => .NF

/-- `M`, the field's mask (R48). -/
def FieldSet.mask : FieldSet → Byte
  | .poc f => f.mask
  | .ccc f => f.mask
  | .ttc f => f.mask
  | .ss f => f.mask
  | .nf f => f.mask

/-- `lo`, the field's lowest bit. -/
def FieldSet.lo : FieldSet → Nat
  | .poc f => f.lo
  | .ccc f => f.lo
  | .ttc f => f.lo
  | .ss f => f.lo
  | .nf f => f.lo

/-- `code(x)`, the raw code of the value. -/
def FieldSet.code : FieldSet → Byte
  | .poc f => f.code
  | .ccc f => f.code
  | .ttc f => f.code
  | .ss f => f.code
  | .nf f => f.code

/-- `(code(x) << lo) & M`: the value in its place in the byte (R96, R134). -/
def FieldSet.data (f : FieldSet) : Byte := (f.code <<< f.lo) &&& f.mask

/-- `setField(r, f, x)(b) = ENC_r(DEC_r(b)[f := x])` (R137; for all five layouts, as R134 states it). -/
def setField (f : FieldSet) (b : Byte) : Byte :=
  match f with
  | .poc g => encPoc (g.apply (decPoc b))
  | .ccc g => encCcc (g.apply (decCcc b))
  | .ttc g => encTtc (g.apply (decTtc b))
  | .ss g => encSs (g.apply (decSs b))
  | .nf g => encNf (g.apply (decNf b))

end Sys2Proof.Machine
end

