-- ==== Sys2Proof/Machine/Flags.lean ====
section
/-! DEFINITION. CSRSEQ has no flags, condition codes or predicates (10_state.md R26): the only status a host can read is
`S.RESP.STATUS`. Its values (R24) and the refusal codes (60_exceptions.md R193). -/

namespace Sys2Proof.Machine

/-- STATUS of a command that completed (R24). -/
abbrev statusOk : BitVec 2 := 0#2

/-- STATUS of a command that a transport failure ended (R24, R190). -/
abbrev statusBusError : BitVec 2 := 1#2

/-- STATUS of a word the decoder refused (R24, R192). -/
abbrev statusRefused : BitVec 2 := 2#2

/-- The code a refusal reports in DATA (R193). -/
def refusalData : RefusalCode → Half
  | .OPCODE => 0x0001#16
  | .FORMAT => 0x0002#16
  | .REG => 0x0003#16
  | .RO => 0x0004#16

end Sys2Proof.Machine
end

