-- ==== Sys2Proof/Machine/Operands.lean ====
section
/-! DEFINITION. Operand forms: register addresses (30_encoding.md R82, R86, R95), bytes extended to DATA (42_sequencer.md
R150), and the UPDATE mutator (R151). -/

namespace Sys2Proof.Machine

/-- The address a register name stands for (R30, R95). -/
def regNameAddr : RegName → RegAddr
  | .ISC => 0x00#8
  | .POC => 0x01#8
  | .CCC => 0x02#8
  | .PCT => 0x03#8
  | .CVC => 0x04#8
  | .TTC => 0x05#8
  | .BTR => 0x06#8
  | .MOC => 0x07#8
  | .SS => 0x08#8
  | .NF => 0x09#8
  | .VPR => 0x0A#8

/-- `a = zext_8(REG)` (R82, R86). -/
def regAddr (reg : RegIndex) : RegAddr := reg.setWidth 8

/-- A byte as a result: `zext_16(b)` (R150, R166). -/
def byteData (b : Byte) : Half := b.setWidth 16

/-- The UPDATE mutator `f(b) = (b & ~MASK) | (DATA & MASK)` (R151). -/
def maskedWrite (mask data b : Byte) : Byte := (b &&& ~~~mask) ||| (data &&& mask)

/-- Whether `REG` names a register at all (R82, R89). -/
def regExists (reg : RegIndex) : Bool := decide (reg.toNat < Config.regCount)

/-- Whether an update may target `REG` (R31, R89). -/
def regWritable (reg : RegIndex) : Bool := decide (reg.toNat < Config.writableCount)

end Sys2Proof.Machine
end

