-- ==== Sys2Proof/Machine/Ops.lean ====
section
/-! DEFINITION. The shared operations of SEQ: bus transactions (20_memory.md R60 to R62), the response (10_state.md R24),
the ends of a command (42_sequencer.md, 60_exceptions.md R190, R192, R198), the two sequences (42_sequencer.md R152,
R153), reset (70_reset_and_hazards.md R220), and CODEC's output. -/

namespace Sys2Proof.Machine

/-! ## The transaction port -/

/-- A request on the transport's two primitives (R60): `write_read(dev, out, in_buf[n])` or `write(dev, bytes)`. -/
inductive BusRequest where
  | writeRead (dev : DevAddr) (out : List Byte) (inLen : Nat)
  | write (dev : DevAddr) (bytes : List Byte)
deriving DecidableEq, Repr

/-- What a trace entry's transaction put on the port: the register address byte first, then the value (R60, R66). -/
def busRequest : Entry → BusRequest
  | .rd dev a _ => .writeRead dev [a] 1
  | .wr dev a v _ => .write dev [a, v]

/-- `T` with its last entry replaced (R61, R62). -/
def replaceLast (t : List Entry) (e : Entry) : List Entry := t.dropLast ++ [e]

/-- Issue the read transaction of `MemRead(a, 1)` (R61). -/
def issueRead (a : RegAddr) (s : State) : State :=
  { s with trace := s.trace ++ [.rd Config.devAddr a none], phase := .rdWait }

/-- Record the answer to the read of `a` (R61). -/
def settleRead (a : RegAddr) (r : ReadResult) (s : State) : State :=
  { s with trace := replaceLast s.trace (.rd Config.devAddr a (some r)) }

/-- Issue the write transaction of `MemWrite(a, 1, v)` (R62). -/
def issueWrite (a : RegAddr) (v : Byte) (s : State) : State :=
  { s with trace := s.trace ++ [.wr Config.devAddr a v none], phase := .wrWait }

/-- Record the answer to the write of `v` to `a` (R62). -/
def settleWrite (a : RegAddr) (v : Byte) (r : WriteResult) (s : State) : State :=
  { s with trace := replaceLast s.trace (.wr Config.devAddr a v (some r)) }

/-- The machine after one event of the script has been taken. -/
def takeEvent (rest : List Event) (s : State) : State := { s with script := rest }

/-- The transport's answer to the read, if it comes next, and the state with that event consumed (R155). -/
def takeReadAnswer (s : State) : Option (ReadResult × State) :=
  match s.script with
  | .readAnswer r :: rest => some (r, takeEvent rest s)
  | _ => none

/-- The transport's answer to the write, if it comes next, and the state with that event consumed (R155). -/
def takeWriteAnswer (s : State) : Option (WriteResult × State) :=
  match s.script with
  | .writeAnswer r :: rest => some (r, takeEvent rest s)
  | _ => none

/-! ## Latches -/

/-- `S.OLD <- b` (R23). -/
def setOld (b : Byte) (s : State) : State := { s with old := some b }

/-- `S.NEW <- v` (R23). -/
def setNew (v : Byte) (s : State) : State := { s with new := some v }

/-- Read a latch and go on with its value; outside its window it holds none, which is a modelling error (R23, U12). -/
def useLatch {α : Type} (l : Latch) (value : Option α) (k : α → StepOutcome) : StepOutcome :=
  match value with
  | none => .fault (.latchHoldsNoValue l)
  | some v => k v

/-! ## The end of a command -/

/-- A command ends: `S.RESP` is written, SEQ returns to IDLE and the latches hold no value (R12, R23, R24, R198). The host
counts the response (R21). Nothing else is saved or changed, and there is no return operation (R198, R199). -/
def endCommand (r : Resp) (s : State) : State :=
  { s with resp := some r, phase := .idle, cmd := none, old := none, new := none, hostIndex := s.hostIndex + 1 }

/-- `respond(OK, data)`, with `VIEW` if the command presents one (R24, R165). -/
def respondOk (data : Half) (view : Option RespView) (s : State) : State :=
  endCommand { status := statusOk, data := data, err := none, view := view } s

/-- Error entry, the one operation by which a command ends with an error (R198). -/
def enterError (status : BitVec 2) (data : Half) (err : Option BusError) (s : State) : State :=
  endCommand { status := status, data := data, err := err, view := none } s

/-- `raise BusError(e)` (R190): the error verbatim, DATA zero. -/
def raiseBusError (e : BusError) (s : State) : State := enterError statusBusError 0x0000#16 (some e) s

/-- `raise Refused(code)` (R192): no bus transaction. -/
def raiseRefused (c : RefusalCode) (s : State) : State := enterError statusRefused (refusalData c) none s

/-! ## The two sequences

A command's sequence runs over several events (R155). Each sequence takes the event that `S.PHASE` enables: in IDLE the
acceptance, in a wait phase the transport's answer. With no answer to take, SEQ stays as it is (R196). -/

/-- `ReadSeq(a, g)` (R153), with the view the response presents (R165). -/
def readSeq (a : RegAddr) (g : Byte → Half) (view : Byte → Option RespView) (s : State) : StepOutcome :=
  match s.phase with
  | .idle => .next (issueRead a s)
  | .rdWait =>
    match takeReadAnswer s with
    | none => .next s
    | some (.err e, s1) => .next (raiseBusError e (settleRead a (.err e) s1))
    | some (.ok b, s1) =>
      let s2 := setOld b (settleRead a (.ok b) s1)
      useLatch .OLD s2.old fun o => .next (respondOk (g o) (view o) s2)
  | .wrWait => .fault .readCommandInWriteWait

/-- `RmwSeq(a, f)` (R152): one read, the mutator on this command's own read, one write, which is never skipped (R162). -/
def rmwSeq (a : RegAddr) (f : Byte → Byte) (s : State) : StepOutcome :=
  match s.phase with
  | .idle => .next (issueRead a s)
  | .rdWait =>
    match takeReadAnswer s with
    | none => .next s
    | some (.err e, s1) => .next (raiseBusError e (settleRead a (.err e) s1))
    | some (.ok b, s1) =>
      let s2 := setOld b (settleRead a (.ok b) s1)
      useLatch .OLD s2.old fun o =>
        let s3 := setNew (f o) s2
        useLatch .NEW s3.new fun v => .next (issueWrite a v s3)
  | .wrWait =>
    match takeWriteAnswer s with
    | none => .next s
    | some (r, s1) =>
      useLatch .NEW s1.new fun v =>
        let s2 := settleWrite a v r s1
        match r with
        | .ok => .next (respondOk 0x0000#16 none s2)
        | .err e => .next (raiseBusError e s2)

/-! ## Reset, acceptance and CODEC -/

/-- The Reset event (R220, R221): IDLE, no latch holds a value, no response. `T` stays, with the entry of an abandoned
transaction still pending, and no transaction is issued. -/
def resetSeq (s : State) : State :=
  { s with phase := .idle, cmd := none, old := none, new := none, resp := none }

/-- `S.CMD <- w` (R154). -/
def latchCommand (w : CmdWord) (s : State) : State := { s with cmd := some w }

/-- CODEC presents its result on the output port (R92); SEQ's state is not touched (R27). -/
def presentCodec (o : CodecOut) (s : State) : State := { s with codecOut := some o }

end Sys2Proof.Machine
end

