-- ==== Sys2Proof/Machine/CodecFunctions.lean ====
section
/-! DEFINITION. The meanings of the twelve CODEC functions, used through the function select (30_encoding.md R92): each
reads its typed input port and presents its result; none can fail (41_codec.md R110, R194). -/

namespace Sys2Proof.Machine

/-- FN 0x0 (R118). -/
def execDecPoc (s : State) : StepOutcome := .next (presentCodec (.poc (decPoc s.codecIn.bin)) s)

/-- FN 0x1 (R119). -/
def execEncPoc (s : State) : StepOutcome := .next (presentCodec (.bout (encPoc s.codecIn.poc)) s)

/-- FN 0x2 (R120). -/
def execDecCcc (s : State) : StepOutcome := .next (presentCodec (.ccc (decCcc s.codecIn.bin)) s)

/-- FN 0x3 (R121). -/
def execEncCcc (s : State) : StepOutcome := .next (presentCodec (.bout (encCcc s.codecIn.ccc)) s)

/-- FN 0x4 (R122). -/
def execDecTtc (s : State) : StepOutcome := .next (presentCodec (.ttc (decTtc s.codecIn.bin)) s)

/-- FN 0x5 (R123). -/
def execEncTtc (s : State) : StepOutcome := .next (presentCodec (.bout (encTtc s.codecIn.ttc)) s)

/-- FN 0x6 (R126). -/
def execDecSs (s : State) : StepOutcome := .next (presentCodec (.ss (decSs s.codecIn.bin)) s)

/-- FN 0x7 (R127). -/
def execEncSs (s : State) : StepOutcome := .next (presentCodec (.bout (encSs s.codecIn.ss)) s)

/-- FN 0x8 (R128). -/
def execDecNf (s : State) : StepOutcome := .next (presentCodec (.nf (decNf s.codecIn.bin)) s)

/-- FN 0x9 (R129). -/
def execEncNf (s : State) : StepOutcome := .next (presentCodec (.bout (encNf s.codecIn.nf)) s)

/-- FN 0xA (R130). -/
def execIchgToMa (s : State) : StepOutcome := .next (presentCodec (.mout (ichgToMa s.codecIn.iin)) s)

/-- FN 0xB (R131). -/
def execMaToIchg (s : State) : StepOutcome := .next (presentCodec (.iout (maToIchg s.codecIn.min)) s)

end Sys2Proof.Machine
end

