-- ==== Sys2Proof/Machine/Commands.lean ====
section
/-! DEFINITION. The meanings of the eight SEQ commands (42_sequencer.md R150 to R161). Each is a sequence with the target
and the function of R155's command table, so it covers every event of the command. -/

namespace Sys2Proof.Machine

/-- `READ reg` (R150): the raw byte. An index that names no register is refused at acceptance (R89). -/
def execRead (reg : RegIndex) (s : State) : StepOutcome :=
  if regExists reg then readSeq (regAddr reg) byteData (fun _ => none) s
  else .next (raiseRefused .REG s)

/-- `UPDATE reg, mask, data` (R151). An index that names no register, or a read-only one, is refused at acceptance (R89),
REG before RO (R197). -/
def execUpdate (reg : RegIndex) (mask data : Byte) (s : State) : StepOutcome :=
  if regExists reg then
    if regWritable reg then rmwSeq (regAddr reg) (maskedWrite mask data) s
    else .next (raiseRefused .RO s)
  else .next (raiseRefused .REG s)

/-- `DISABLE_WATCHDOG` (R156): clears `en_timer` of 0x05 and nothing else; not the `watchdog` field (C4, R234). -/
def execDisableWatchdog (s : State) : StepOutcome :=
  rmwSeq (regNameAddr .TTC) (setField (.ttc (.en_timer false))) s

/-- `RESET_WATCHDOG` (R157): sets `watchdog_reset` of 0x01. -/
def execResetWatchdog (s : State) : StepOutcome :=
  rmwSeq (regNameAddr .POC) (setField (.poc (.watchdog_reset true))) s

/-- `STATUS` (R158). -/
def execStatus (s : State) : StepOutcome :=
  readSeq (regNameAddr .SS) byteData (fun b => some (.ss (decSs b))) s

/-- `NEW_FAULT` (R159). -/
def execNewFault (s : State) : StepOutcome :=
  readSeq (regNameAddr .NF) byteData (fun b => some (.nf (decNf b))) s

/-- `GET_ICHG_MA` (R160). -/
def execGetIchgMa (s : State) : StepOutcome :=
  readSeq (regNameAddr .CCC) (fun b => ichgToMa (decCcc b).ichg) (fun _ => none) s

/-- `SET_ICHG_MA m` (R161): the code is a pure function of the operand (D27). -/
def execSetIchgMa (milliamps : Half) (s : State) : StepOutcome :=
  rmwSeq (regNameAddr .CCC) (setField (.ccc (.ichg (maToIchg milliamps)))) s

end Sys2Proof.Machine
end

