-- ==== Sys2Proof/Machine/Dispatch.lean ====
section
/-! DEFINITION. One arm per instruction. -/

namespace Sys2Proof.Machine

def exec (i : Instr) (s : State) : Host.Outcome State Fault Refusal :=
  match i with
  | .read reg => Sys2Proof.Machine.execRead reg s
  | .update reg mask data => Sys2Proof.Machine.execUpdate reg mask data s
  | .disableWatchdog => Sys2Proof.Machine.execDisableWatchdog s
  | .resetWatchdog => Sys2Proof.Machine.execResetWatchdog s
  | .status => Sys2Proof.Machine.execStatus s
  | .newFault => Sys2Proof.Machine.execNewFault s
  | .getIchgMa => Sys2Proof.Machine.execGetIchgMa s
  | .setIchgMa milliamps => Sys2Proof.Machine.execSetIchgMa milliamps s
  | .decPoc => Sys2Proof.Machine.execDecPoc s
  | .encPoc => Sys2Proof.Machine.execEncPoc s
  | .decCcc => Sys2Proof.Machine.execDecCcc s
  | .encCcc => Sys2Proof.Machine.execEncCcc s
  | .decTtc => Sys2Proof.Machine.execDecTtc s
  | .encTtc => Sys2Proof.Machine.execEncTtc s
  | .decSs => Sys2Proof.Machine.execDecSs s
  | .encSs => Sys2Proof.Machine.execEncSs s
  | .decNf => Sys2Proof.Machine.execDecNf s
  | .encNf => Sys2Proof.Machine.execEncNf s
  | .ichgToMa => Sys2Proof.Machine.execIchgToMa s
  | .maToIchg => Sys2Proof.Machine.execMaToIchg s

end Sys2Proof.Machine
end

