-- ==== Sys2Proof/Machine/Events.lean ====
section
/-! DEFINITION. What each event of the script does (42_sequencer.md R154, R155; 60_exceptions.md R192, R205;
70_reset_and_hazards.md R220, R221; 41_codec.md R136). `step` only calls these. -/

namespace Sys2Proof.Machine

/-- `Accept(w)` (R154): enabled in IDLE. The word is latched and decoded; a refused word gets its response and issues no
transaction, a command starts. Outside IDLE the host has no such move (R205); the model faults (log entry 4). -/
def acceptEvent (w : CmdWord) (rest : List Event) (s : State) : StepOutcome :=
  match s.phase with
  | .idle =>
    match decodeCommand w with
    | .error c => .next (raiseRefused c (latchCommand w (takeEvent rest s)))
    | .ok i => exec i (latchCommand w (takeEvent rest s))
  | .rdWait => .fault .commandWhileBusy
  | .wrWait => .fault .commandWhileBusy

/-- In a wait phase, the command in `S.CMD` goes on with the transport's answer (R155), which its sequence takes from the
script. -/
def resume (s : State) : StepOutcome :=
  useLatch .CMD s.cmd fun w =>
    match decodeCommand w with
    | .error _ => .fault .latchedWordNamesNoCommand
    | .ok i => exec i s

/-- `ReadAnswer` is an event in RD_WAIT only (R155). Elsewhere a late answer "is not an event of SEQ" (R221): the transport
has spoken and nothing of the machine changes (log entry 3). -/
def readAnswerEvent (rest : List Event) (s : State) : StepOutcome :=
  match s.phase with
  | .idle => .next (takeEvent rest s)
  | .rdWait => resume s
  | .wrWait => .next (takeEvent rest s)

/-- `WriteAnswer` is an event in WR_WAIT only (R155, R221; log entry 3). -/
def writeAnswerEvent (rest : List Event) (s : State) : StepOutcome :=
  match s.phase with
  | .idle => .next (takeEvent rest s)
  | .rdWait => .next (takeEvent rest s)
  | .wrWait => resume s

/-- `Reset`, enabled in every phase (R155, R220). -/
def resetEvent (rest : List Event) (s : State) : StepOutcome := .next (resetSeq (takeEvent rest s))

/-- The host selects a CODEC function and drives its ports, in any phase (R92, R93). A reserved select is refused (R136). -/
def codecEvent (fn : FnSel) (ins : CodecIn) (rest : List Event) (s : State) : StepOutcome :=
  match decodeFn fn with
  | .error _ => .refused (.codecFunctionReserved fn)
  | .ok i => exec i { takeEvent rest s with codecIn := ins }

/-- No event is left: SEQ has no enabled step and stays as it is, waiting in IDLE for the host (R223) or in a wait phase
for the transport, where that is the spec's stuck state (R196, U3; log entry 2). -/
def noEvent (s : State) : StepOutcome := .next s

/-- The event by which a spelling reaches the machine: a word at the command port, or a select with the ports as they are
driven. -/
def spellingEvent (sp : Spelling) (s : State) : Event :=
  match sp with
  | .command w => .accept w
  | .codec fn => .codec fn s.codecIn

/-- The machine ready to take `sp` as its very next event: idle, with no command in progress, and `sp` first in the
script. -/
def presentSpelling (sp : Spelling) (s : State) : State :=
  match s.phase with
  | .idle => { s with script := spellingEvent sp s :: s.script }
  | .rdWait => { s with phase := .idle, cmd := none, old := none, new := none, script := spellingEvent sp s :: s.script }
  | .wrWait => { s with phase := .idle, cmd := none, old := none, new := none, script := spellingEvent sp s :: s.script }

end Sys2Proof.Machine
end

