-- ==== Sys2Proof/Machine/Step.lean ====
section
/-! DEFINITION. One step: the next event of the script takes effect (42_sequencer.md R155). -/

namespace Sys2Proof.Machine

/-- One event. -/
def step (s : State) : Host.Outcome State Fault Refusal :=
  match s.script with
  | [] => noEvent s
  | .accept w :: rest => acceptEvent w rest s
  | .readAnswer _ :: rest => readAnswerEvent rest s
  | .writeAnswer _ :: rest => writeAnswerEvent rest s
  | .reset :: rest => resetEvent rest s
  | .codec fn ins :: rest => codecEvent fn ins rest s

/-- `s` with the instruction word placed where the machine takes its next instruction: the next thing the host does is to
present it (log entry 12). A number that spells nothing changes nothing. -/
def State.withFetchWord (s : State) (nbits w : Nat) : State :=
  match tableSpelling nbits w with
  | none => s
  | some sp => presentSpelling sp s

end Sys2Proof.Machine
end

