-- ==== Sys2Proof/Machine/Assembler.lean ====
section
/-! DEFINITION. The assembler (30_encoding.md R94 to R96): from one line of text to one command word, or an assembly error
(`none`), in which case no word is emitted. The lexical details R94 leaves open are log entry 13. -/

namespace Sys2Proof.Machine

/-- One line, parsed: a command of R94 or a pseudo-instruction of R96. Literals are unbounded until they are fitted to
their fields. -/
inductive AsmLine where
  | read (reg : Nat)
  | update (reg mask data : Nat)
  | disableWatchdog
  | resetWatchdog
  | status
  | newFault
  | getIchgMa
  | setIchgMa (milliamps : Nat)
  | setf (f : FieldSet)
  | writeb (reg byte : Nat)
  | touch (reg : Nat)
  | readId
deriving DecidableEq, Repr

/-- A register name as a literal (R95). -/
def regNameNat (r : RegName) : Nat := (regNameAddr r).toNat

/-- The pseudo-instructions of R96, expanded; a command stands for itself. `SETF` is for POC, CCC and TTC only. -/
def expandLine : AsmLine → Option AsmLine
  | .setf f =>
    match f with
    | .poc _ => some (.update (regNameNat f.reg) f.mask.toNat f.data.toNat)
    | .ccc _ => some (.update (regNameNat f.reg) f.mask.toNat f.data.toNat)
    | .ttc _ => some (.update (regNameNat f.reg) f.mask.toNat f.data.toNat)
    | .ss _ => none
    | .nf _ => none
  | .writeb reg byte => some (.update reg 0xFF byte)
  | .touch reg => some (.update reg 0x00 0x00)
  | .readId => some (.read (regNameNat .VPR))
  | .read reg => some (.read reg)
  | .update reg mask data => some (.update reg mask data)
  | .disableWatchdog => some .disableWatchdog
  | .resetWatchdog => some .resetWatchdog
  | .status => some .status
  | .newFault => some .newFault
  | .getIchgMa => some .getIchgMa
  | .setIchgMa m => some (.setIchgMa m)

/-- A literal in a field of `n` bits; one that does not fit is an assembly error (R94). -/
def fitLiteral (n v : Nat) : Option (BitVec n) := if v < 2 ^ n then some (BitVec.ofNat n v) else none

/-- The word of a command (R94, R98). A register index that fits the field but names no register, or a read-only one,
assembles: SEQ refuses the word (R94: "`UPDATE SS, ...` assembles"). -/
def emitCommand : AsmLine → Option CmdWord
  | .read reg => (fitLiteral 4 reg).map fun r => packWord 0x0#4 r 0#8 0#16
  | .update reg mask data =>
    match fitLiteral 4 reg, fitLiteral 8 mask, fitLiteral 8 data with
    | some r, some m, some d => some (packWord 0x1#4 r m (d.setWidth 16))
    | _, _, _ => none
  | .disableWatchdog => some (packWord 0x2#4 0#4 0#8 0#16)
  | .resetWatchdog => some (packWord 0x3#4 0#4 0#8 0#16)
  | .status => some (packWord 0x4#4 0#4 0#8 0#16)
  | .newFault => some (packWord 0x5#4 0#4 0#8 0#16)
  | .getIchgMa => some (packWord 0x6#4 0#4 0#8 0#16)
  | .setIchgMa ma => (fitLiteral 16 ma).map fun m => packWord 0x7#4 0#4 0#8 m
  | .setf _ => none
  | .writeb _ _ => none
  | .touch _ => none
  | .readId => none

/-- The word of a line: pseudo-instructions are expanded first. -/
def emitLine (l : AsmLine) : Option CmdWord := (expandLine l).bind emitCommand

/-! ## Text -/

/-- A token, unless it is empty. -/
def pushToken (cur : List Char) (rest : List (List Char)) : List (List Char) :=
  if cur = [] then rest else cur :: rest

/-- Tokens of a line: blanks separate, `,` and `.` stand for themselves. `cur` is the token being read. -/
def lexFrom (cur : List Char) : List Char → List (List Char)
  | [] => pushToken cur []
  | c :: cs =>
    if c = ' ' ∨ c = '\t' then pushToken cur (lexFrom [] cs)
    else if c = ',' ∨ c = '.' then pushToken cur ([c] :: lexFrom [] cs)
    else lexFrom (cur ++ [c]) cs

/-- The value of a digit in base 16 or below. -/
def digitValue (c : Char) : Option Nat :=
  if '0'.toNat ≤ c.toNat ∧ c.toNat ≤ '9'.toNat then some (c.toNat - '0'.toNat)
  else if 'A'.toNat ≤ c.toNat ∧ c.toNat ≤ 'F'.toNat then some (c.toNat - 'A'.toNat + 10)
  else if 'a'.toNat ≤ c.toNat ∧ c.toNat ≤ 'f'.toNat then some (c.toNat - 'a'.toNat + 10)
  else none

/-- Digits after `acc`, most significant first. -/
def digitsFrom (base acc : Nat) : List Char → Option Nat
  | [] => some acc
  | c :: cs =>
    match digitValue c with
    | some d => if d < base then digitsFrom base (acc * base + d) cs else none
    | none => none

/-- A number with at least one digit. -/
def digits (base : Nat) (cs : List Char) : Option Nat := if cs = [] then none else digitsFrom base 0 cs

/-- Decimal, `0x` hexadecimal or `0b` binary (R94). -/
def parseNumber : List Char → Option Nat
  | '0' :: 'x' :: cs => digits 16 cs
  | '0' :: 'b' :: cs => digits 2 cs
  | cs => digits 10 cs

/-- The entry of a table of spellings. -/
def lookupSpelling {α : Type} (t : List Char) : List (String × α) → Option α
  | [] => none
  | (name, x) :: more => if t = name.toList then some x else lookupSpelling t more

/-- The register symbols (R95). -/
def regSymbols : List (String × RegName) :=
  [("ISC", .ISC), ("POC", .POC), ("CCC", .CCC), ("PCT", .PCT), ("CVC", .CVC), ("TTC", .TTC), ("BTR", .BTR),
   ("MOC", .MOC), ("SS", .SS), ("NF", .NF), ("VPR", .VPR)]

/-- A register operand: a symbol or a number (R94, R95). -/
def parseReg (t : List Char) : Option Nat :=
  match lookupSpelling t regSymbols with
  | some r => some (regNameNat r)
  | none => parseNumber t

/-- `true` or `false` (R96). -/
def parseBool (t : List Char) : Option Bool := lookupSpelling t [("true", true), ("false", false)]

/-- An integer that must fit the field's width (R96). -/
def parseField (n : Nat) (t : List Char) : Option (BitVec n) := (parseNumber t).bind (fitLiteral n)

/-- R40. -/
def parseBoostLim (t : List Char) : Option BoostLim := lookupSpelling t [("A1_0", .A1_0), ("A1_5", .A1_5)]

/-- R41. -/
def parseChgTimer (t : List Char) : Option ChgTimer :=
  lookupSpelling t [("H5", .H5), ("H8", .H8), ("H12", .H12), ("H20", .H20)]

/-- R42. -/
def parseWatchdog (t : List Char) : Option Watchdog :=
  lookupSpelling t [("Disabled", .Disabled), ("S40", .S40), ("S80", .S80), ("S160", .S160)]

/-- The fields of 0x01, each with the reading of its value (R32, R96). -/
def pocFields (v : List Char) : List (String × Option PocSet) :=
  [("boost_current_limit", (parseBoostLim v).map .boost_current_limit),
   ("sys_min", (parseField 3 v).map .sys_min),
   ("en_charge", (parseBool v).map .en_charge),
   ("en_otg", (parseBool v).map .en_otg),
   ("watchdog_reset", (parseBool v).map .watchdog_reset),
   ("register_reset", (parseBool v).map .register_reset)]

/-- The fields of 0x02 (R33, R96). -/
def cccFields (v : List Char) : List (String × Option CccSet) :=
  [("force_20pct", (parseBool v).map .force_20pct),
   ("bcold", (parseBool v).map .bcold),
   ("ichg", (parseField 5 v).map .ichg),
   ("reserved7", (parseField 1 v).map .reserved7)]

/-- The fields of 0x05 (R34, R96). -/
def ttcFields (v : List Char) : List (String × Option TtcSet) :=
  [("reserved0", (parseField 1 v).map .reserved0),
   ("charge_timer", (parseChgTimer v).map .charge_timer),
   ("en_timer", (parseBool v).map .en_timer),
   ("watchdog", (parseWatchdog v).map .watchdog),
   ("reserved6", (parseField 1 v).map .reserved6),
   ("en_term", (parseBool v).map .en_term)]

/-- `<reg>.<field>, <value>` of a `SETF`; the register must be POC, CCC or TTC (R96). -/
def parseFieldSet (reg : Nat) (field value : List Char) : Option FieldSet :=
  if reg = regNameNat .POC then ((lookupSpelling field (pocFields value)).bind id).map .poc
  else if reg = regNameNat .CCC then ((lookupSpelling field (cccFields value)).bind id).map .ccc
  else if reg = regNameNat .TTC then ((lookupSpelling field (ttcFields value)).bind id).map .ttc
  else none

/-- The tokens of a line as a command or pseudo-instruction (R94, R96). -/
def parseTokens : List (List Char) → Option AsmLine
  | [m] =>
    lookupSpelling m [("DISABLE_WATCHDOG", .disableWatchdog), ("RESET_WATCHDOG", .resetWatchdog), ("STATUS", .status),
      ("NEW_FAULT", .newFault), ("GET_ICHG_MA", .getIchgMa), ("READ_ID", .readId)]
  | [m, x] =>
    (lookupSpelling m [("READ", (parseReg x).map AsmLine.read), ("TOUCH", (parseReg x).map AsmLine.touch),
      ("SET_ICHG_MA", (parseNumber x).map AsmLine.setIchgMa)]).bind id
  | [m, r, [','], b] =>
    if m = "WRITEB".toList then
      match parseReg r, parseNumber b with
      | some reg, some byte => some (.writeb reg byte)
      | _, _ => none
    else none
  | [m, r, [sep], x, [','], y] =>
    if m = "UPDATE".toList ∧ sep = ',' then
      match parseReg r, parseNumber x, parseNumber y with
      | some reg, some mask, some data => some (.update reg mask data)
      | _, _, _ => none
    else if m = "SETF".toList ∧ sep = '.' then
      ((parseReg r).bind fun reg => parseFieldSet reg x y).map .setf
    else none
  | _ => none

/-- One line of assembly to one command word; `none` is an assembly error. -/
def assemble (line : String) : Option CmdWord := (parseTokens (lexFrom [] line.toList)).bind emitLine

end Sys2Proof.Machine
end

