-- ==== Sys2Proof/Safety.lean ====
section
/-! DEFINITION. What counts as a safe state and a safe run, in the terms the statements use. The formulas here are the
closed forms the spec gives beside its pseudocode, so that the statements hold the meanings against them. -/

namespace Sys2Proof.Machine

/-- The next state of an outcome, if it has one. -/
def nextState : StepOutcome → Option State
  | .next s => some s
  | .fault _ => none
  | .refused _ => none

/-! ## R155's command table, in closed form -/

/-- Whether an instruction is a SEQ command (R81). -/
def isCommand : Instr → Bool
  | .read _ => true
  | .update _ _ _ => true
  | .disableWatchdog => true
  | .resetWatchdog => true
  | .status => true
  | .newFault => true
  | .getIchgMa => true
  | .setIchgMa _ => true
  | .decPoc => false
  | .encPoc => false
  | .decCcc => false
  | .encCcc => false
  | .decTtc => false
  | .encTtc => false
  | .decSs => false
  | .encSs => false
  | .decNf => false
  | .encNf => false
  | .ichgToMa => false
  | .maToIchg => false

/-- Whether a command runs the RMW sequence (R155). -/
def isRmw : Instr → Bool
  | .update _ _ _ => true
  | .disableWatchdog => true
  | .resetWatchdog => true
  | .setIchgMa _ => true
  | .read _ => false
  | .status => false
  | .newFault => false
  | .getIchgMa => false
  | .decPoc => false
  | .encPoc => false
  | .decCcc => false
  | .encCcc => false
  | .decTtc => false
  | .encTtc => false
  | .decSs => false
  | .encSs => false
  | .decNf => false
  | .encNf => false
  | .ichgToMa => false
  | .maToIchg => false

/-- The target register of a command (R85, R155); a CODEC function has none. -/
def target : Instr → RegAddr
  | .read reg => reg.setWidth 8
  | .update reg _ _ => reg.setWidth 8
  | .disableWatchdog => 0x05#8
  | .resetWatchdog => 0x01#8
  | .status => 0x08#8
  | .newFault => 0x09#8
  | .getIchgMa => 0x02#8
  | .setIchgMa _ => 0x02#8
  | .decPoc => 0x00#8
  | .encPoc => 0x00#8
  | .decCcc => 0x00#8
  | .encCcc => 0x00#8
  | .decTtc => 0x00#8
  | .encTtc => 0x00#8
  | .decSs => 0x00#8
  | .encSs => 0x00#8
  | .decNf => 0x00#8
  | .encNf => 0x00#8
  | .ichgToMa => 0x00#8
  | .maToIchg => 0x00#8

/-- `MA_TO_ICHG(m)` as a natural number: `m` clamped to 512..2048, less 512, divided by 64 (R131). -/
def clampedCode (m : Nat) : Nat := (min (max m 512) 2048 - 512) / 64

/-- The byte an RMW command writes for the byte it read: `(b & ~MASK) | (DATA & MASK)` (R151), `b & 0xF7` (R156),
`b | 0x40` (R157), `(b & 0x83) | (MA_TO_ICHG(m) << 2)` (R161). Other instructions write nothing. -/
def writtenByte (i : Instr) (b : Byte) : Byte :=
  match i with
  | .update _ mask data => (b &&& ~~~mask) ||| (data &&& mask)
  | .disableWatchdog => b &&& 0xF7#8
  | .resetWatchdog => b ||| 0x40#8
  | .setIchgMa m => (b &&& 0x83#8) ||| (BitVec.ofNat 8 (clampedCode m.toNat) <<< 2)
  | .read _ => b
  | .status => b
  | .newFault => b
  | .getIchgMa => b
  | .decPoc => b
  | .encPoc => b
  | .decCcc => b
  | .encCcc => b
  | .decTtc => b
  | .encTtc => b
  | .decSs => b
  | .encSs => b
  | .decNf => b
  | .encNf => b
  | .ichgToMa => b
  | .maToIchg => b

/-- The bits an RMW command may change (R163). -/
def changedMask : Instr → Byte
  | .update _ mask _ => mask
  | .disableWatchdog => 0x08#8
  | .resetWatchdog => 0x40#8
  | .setIchgMa _ => 0x7C#8
  | .read _ => 0x00#8
  | .status => 0x00#8
  | .newFault => 0x00#8
  | .getIchgMa => 0x00#8
  | .decPoc => 0x00#8
  | .encPoc => 0x00#8
  | .decCcc => 0x00#8
  | .encCcc => 0x00#8
  | .decTtc => 0x00#8
  | .encTtc => 0x00#8
  | .decSs => 0x00#8
  | .encSs => 0x00#8
  | .decNf => 0x00#8
  | .encNf => 0x00#8
  | .ichgToMa => 0x00#8
  | .maToIchg => 0x00#8

/-- DATA of a command whose last transaction answered Ok, for the byte its read returned (R166): the byte, `512 + 64c` for
the code in bits [6:2] (R130, R160), or zero. -/
def resultData (i : Instr) (b : Byte) : Half :=
  match i with
  | .read _ => b.setWidth 16
  | .status => b.setWidth 16
  | .newFault => b.setWidth 16
  | .getIchgMa => BitVec.ofNat 16 (512 + 64 * (b.extractLsb' 2 5).toNat)
  | .update _ _ _ => 0x0000#16
  | .disableWatchdog => 0x0000#16
  | .resetWatchdog => 0x0000#16
  | .setIchgMa _ => 0x0000#16
  | .decPoc => 0x0000#16
  | .encPoc => 0x0000#16
  | .decCcc => 0x0000#16
  | .encCcc => 0x0000#16
  | .decTtc => 0x0000#16
  | .encTtc => 0x0000#16
  | .decSs => 0x0000#16
  | .encSs => 0x0000#16
  | .decNf => 0x0000#16
  | .encNf => 0x0000#16
  | .ichgToMa => 0x0000#16
  | .maToIchg => 0x0000#16

/-- VIEW of a command that ended OK (R165). -/
def resultView (i : Instr) (b : Byte) : Option RespView :=
  match i with
  | .status => some (.ss (decSs b))
  | .newFault => some (.nf (decNf b))
  | .read _ => none
  | .update _ _ _ => none
  | .disableWatchdog => none
  | .resetWatchdog => none
  | .getIchgMa => none
  | .setIchgMa _ => none
  | .decPoc => none
  | .encPoc => none
  | .decCcc => none
  | .encCcc => none
  | .decTtc => none
  | .encTtc => none
  | .decSs => none
  | .encSs => none
  | .decNf => none
  | .encNf => none
  | .ichgToMa => none
  | .maToIchg => none

/-! ## What a command does at each of its events

Each says the whole next state: the fields it names change, every other field stays, and `T` keeps every entry but the
pending one it answers. -/

/-- Accepted in IDLE, the command issues its read of `a` (R61, R152, R153). -/
def StartsWithRead (i : Instr) (a : RegAddr) : Prop :=
  ∀ s : State, s.phase = .idle →
    exec i s = .next { s with phase := .rdWait, trace := s.trace ++ [.rd 0x6B#7 a none] }

/-- The read answers Err(e): the command ends with BUS_ERROR and no further transaction (R190). -/
def ReadFailureEnds (i : Instr) (a : RegAddr) : Prop :=
  ∀ (s : State) (e : BusError) (rest : List Event), s.phase = .rdWait → s.script = .readAnswer (.err e) :: rest →
    exec i s = .next { s with
      phase := .idle, cmd := none, old := none, new := none
      resp := some ⟨1#2, 0x0000#16, some e, none⟩
      trace := s.trace.dropLast ++ [.rd 0x6B#7 a (some (.err e))]
      hostIndex := s.hostIndex + 1, script := rest }

/-- The read answers Ok(b): a read command ends with its result (R153). -/
def ReadSuccessEnds (i : Instr) (a : RegAddr) (data : Byte → Half) (view : Byte → Option RespView) : Prop :=
  ∀ (s : State) (b : Byte) (rest : List Event), s.phase = .rdWait → s.script = .readAnswer (.ok b) :: rest →
    exec i s = .next { s with
      phase := .idle, cmd := none, old := none, new := none
      resp := some ⟨0#2, data b, none, view b⟩
      trace := s.trace.dropLast ++ [.rd 0x6B#7 a (some (.ok b))]
      hostIndex := s.hostIndex + 1, script := rest }

/-- The read answers Ok(b): an RMW command computes `f b` and issues its write, whatever `f b` is (R152, R162). -/
def ReadSuccessWrites (i : Instr) (a : RegAddr) (f : Byte → Byte) : Prop :=
  ∀ (s : State) (b : Byte) (rest : List Event), s.phase = .rdWait → s.script = .readAnswer (.ok b) :: rest →
    exec i s = .next { s with
      phase := .wrWait, old := some b, new := some (f b)
      trace := s.trace.dropLast ++ [.rd 0x6B#7 a (some (.ok b)), .wr 0x6B#7 a (f b) none]
      script := rest }

/-- The write answers Ok: an RMW command ends OK with DATA zero (R152, R166). -/
def WriteSuccessEnds (i : Instr) (a : RegAddr) : Prop :=
  ∀ (s : State) (v : Byte) (rest : List Event), s.phase = .wrWait → s.new = some v → s.script = .writeAnswer .ok :: rest →
    exec i s = .next { s with
      phase := .idle, cmd := none, old := none, new := none
      resp := some ⟨0#2, 0x0000#16, none, none⟩
      trace := s.trace.dropLast ++ [.wr 0x6B#7 a v (some .ok)]
      hostIndex := s.hostIndex + 1, script := rest }

/-- The write answers Err(e): an RMW command ends with BUS_ERROR (R190). -/
def WriteFailureEnds (i : Instr) (a : RegAddr) : Prop :=
  ∀ (s : State) (v : Byte) (e : BusError) (rest : List Event), s.phase = .wrWait → s.new = some v →
    s.script = .writeAnswer (.err e) :: rest →
    exec i s = .next { s with
      phase := .idle, cmd := none, old := none, new := none
      resp := some ⟨1#2, 0x0000#16, some e, none⟩
      trace := s.trace.dropLast ++ [.wr 0x6B#7 a v (some (.err e))]
      hostIndex := s.hostIndex + 1, script := rest }

/-- All of a read command: `ReadSeq(a, data)` with the view it presents (R153, R155). -/
def RunsReadSequence (i : Instr) (a : RegAddr) (data : Byte → Half) (view : Byte → Option RespView) : Prop :=
  StartsWithRead i a ∧ ReadSuccessEnds i a data view ∧ ReadFailureEnds i a

/-- All of an RMW command: `RmwSeq(a, f)` (R152, R155). -/
def RunsRmwSequence (i : Instr) (a : RegAddr) (f : Byte → Byte) : Prop :=
  StartsWithRead i a ∧ ReadSuccessWrites i a f ∧ ReadFailureEnds i a ∧ WriteSuccessEnds i a ∧ WriteFailureEnds i a

/-- The host presents `w` in IDLE and it is refused with `code`: the whole next state (R192). -/
def WordRefused (w : CmdWord) (code : Half) : Prop :=
  ∀ (s : State) (rest : List Event), s.phase = .idle → s.script = .accept w :: rest →
    step s = .next { s with
      phase := .idle, cmd := none, old := none, new := none
      resp := some ⟨2#2, code, none, none⟩
      hostIndex := s.hostIndex + 1, script := rest }

/-- `n` steps, stopping at the first fault or refusal. -/
def run (n : Nat) (s : State) : StepOutcome := Host.Core.run Sys2Proof.core n s

/-- One of two, by the low bit of a number. -/
def pick2 {α : Type} (n : Nat) (x0 x1 : α) : α := if n % 2 = 0 then x0 else x1

/-- One of four, by the low two bits of a number. -/
def pick4 {α : Type} (n : Nat) (x0 x1 x2 x3 : α) : α :=
  if n % 4 = 0 then x0 else if n % 4 = 1 then x1 else if n % 4 = 2 then x2 else x3

/-- An outcome without the view of the response (R97: STATUS and NEW_FAULT against READ). -/
def dropView : StepOutcome → StepOutcome
  | .next s => .next { s with resp := s.resp.map fun r => Resp.mk r.status r.data r.err none }
  | .fault r => .fault r
  | .refused r => .refused r

/-- Two states that agree on what SEQ holds and on what comes next, whatever earlier commands left behind in `S.RESP`, `T`,
the ports and `k` (R28). -/
def SameSeq (s t : State) : Prop :=
  s.phase = t.phase ∧ s.cmd = t.cmd ∧ s.old = t.old ∧ s.new = t.new ∧ s.script = t.script

/-- A closed bijection between the codes and the variants of an enumeration (R117): each of `dec` and `enc` undoes the
other, and distinct codes decode to distinct variants. -/
def ClosedBijection {α β : Type} (dec : α → β) (enc : β → α) : Prop :=
  (∀ c, enc (dec c) = c) ∧ (∀ x, dec (enc x) = x) ∧ ∀ c d, c ≠ d → dec c ≠ dec d

/-- What a step from `s` to `t` appended to `T`: it kept `T` but for its last `k` entries and added `new`. -/
def Appended (s t : State) (k : Nat) (new : List Entry) : Prop :=
  t.trace = s.trace.take (s.trace.length - k) ++ new

/-! ## Safe states -/

/-- No latch holds a value (R23). -/
def LatchesEmpty (s : State) : Prop := s.cmd = none ∧ s.old = none ∧ s.new = none

/-- Where SEQ is in a command, and what it then holds and has issued (R22, R23, R61, R62, R152): in IDLE nothing; in RD_WAIT
the command, with its read pending at the end of `T`; in WR_WAIT an RMW command, the byte of this command's own read, the
byte computed from it, and the pair of transactions at the end of `T`. -/
def SeqInv (s : State) : Prop :=
  match s.phase with
  | .idle => LatchesEmpty s
  | .rdWait =>
    ∃ w i, s.cmd = some w ∧ decodeCommand w = .ok i ∧ s.old = none ∧ s.new = none ∧
      ∃ t, s.trace = t ++ [.rd 0x6B#7 (target i) none]
  | .wrWait =>
    ∃ w i b, s.cmd = some w ∧ decodeCommand w = .ok i ∧ isRmw i = true ∧ s.old = some b ∧
      s.new = some (writtenByte i b) ∧
      ∃ t, s.trace = t ++ [.rd 0x6B#7 (target i) (some (.ok b)), .wr 0x6B#7 (target i) (writtenByte i b) none]

/-- A response the spec allows (R24, R165, R193, U13): OK without ERR, and with VIEW only as the decode of DATA[7:0];
BUS_ERROR with ERR and DATA zero; REFUSED with a code 1 to 4; never STATUS 3. -/
def RespOk (r : Resp) : Prop :=
  (r.status = 0#2 ∧ r.err = none ∧
    (r.view = none ∨
      (r.data.toNat < 256 ∧
        (r.view = some (.ss (decSs (r.data.setWidth 8))) ∨ r.view = some (.nf (decNf (r.data.setWidth 8))))))) ∨
  (r.status = 1#2 ∧ r.data = 0#16 ∧ r.err ≠ none ∧ r.view = none) ∨
  (r.status = 2#2 ∧ 1 ≤ r.data.toNat ∧ r.data.toNat ≤ 4 ∧ r.err = none ∧ r.view = none)

/-- The response register holds none or a response the spec allows. -/
def RespInv (s : State) : Prop := ∀ r, s.resp = some r → RespOk r

/-- A transaction SEQ may issue (R62, R63, R64): to bus address 0x6B, reads of 0x00 to 0x0A, writes of 0x00 to 0x07. -/
def EntryOk : Entry → Prop
  | .rd dev a _ => dev = 0x6B#7 ∧ a.toNat ≤ 0x0A
  | .wr dev a _ _ => dev = 0x6B#7 ∧ a.toNat ≤ 0x07

/-- Every transaction of the run is one SEQ may issue. -/
def TraceInv (s : State) : Prop := ∀ e, e ∈ s.trace → EntryOk e

/-- A transaction the transport has answered. -/
def answered : Entry → Bool
  | .rd _ _ r => r.isSome
  | .wr _ _ _ r => r.isSome

/-- With no reset to come or behind, at most one transaction is outstanding (R72): every entry of `T` is answered, but for
the last one while SEQ waits. -/
def OneOutstanding (s : State) : Prop :=
  (∀ e, e ∈ s.script → e ≠ .reset) ∧
  match s.phase with
  | .idle => ∀ e, e ∈ s.trace → answered e = true
  | .rdWait => ∃ t e, s.trace = t ++ [e] ∧ answered e = false ∧ ∀ x, x ∈ t → answered x = true
  | .wrWait => ∃ t e, s.trace = t ++ [e] ∧ answered e = false ∧ ∀ x, x ∈ t → answered x = true

/-- The host breaks its duty at this step: it presents a command while one is in progress (R205, U8). -/
def HostBreaksDuty (s : State) : Prop := s.phase ≠ .idle ∧ ∃ w rest, s.script = .accept w :: rest

/-- The host selects a reserved CODEC function at this step (R136). -/
def HostSelectsReserved (s : State) : Prop :=
  ∃ fn ins rest, s.script = .codec fn ins :: rest ∧ 0xC ≤ fn.toNat

/-! ## Renaming of transport errors

`BusError` is opaque to CSRSEQ (R8, R190). The statement of that renames every error of a state. -/

/-- A renaming of errors on an answer to a read. -/
def ReadResult.rename (f : BusError → BusError) : ReadResult → ReadResult
  | .ok b => .ok b
  | .err e => .err (f e)

/-- On an answer to a write. -/
def WriteResult.rename (f : BusError → BusError) : WriteResult → WriteResult
  | .ok => .ok
  | .err e => .err (f e)

/-- On a trace entry. -/
def Entry.rename (f : BusError → BusError) : Entry → Entry
  | .rd dev a r => .rd dev a (r.map (ReadResult.rename f))
  | .wr dev a v r => .wr dev a v (r.map (WriteResult.rename f))

/-- On an event. -/
def Event.rename (f : BusError → BusError) : Event → Event
  | .accept w => .accept w
  | .readAnswer r => .readAnswer (r.rename f)
  | .writeAnswer r => .writeAnswer (r.rename f)
  | .reset => .reset
  | .codec fn ins => .codec fn ins

/-- On a response. -/
def Resp.rename (f : BusError → BusError) (r : Resp) : Resp := { r with err := r.err.map f }

/-- On a whole state: wherever an error can stand. -/
def State.rename (f : BusError → BusError) (s : State) : State :=
  { s with
    resp := s.resp.map (Resp.rename f)
    trace := s.trace.map (Entry.rename f)
    script := s.script.map (Event.rename f) }

/-- On an outcome. -/
def renameOutcome (f : BusError → BusError) : StepOutcome → StepOutcome
  | .next s => .next (s.rename f)
  | .fault r => .fault r
  | .refused r => .refused r

/-! ## The host's identity check -/

/-- The comparison a host makes after `READ VPR` (R96 `READ_ID`, R225); no step of CSRSEQ makes it (R37, R195). -/
def hostConfirmsIdentity (r : Resp) : Bool := decide (r.data = Config.idExpected.setWidth 16)

end Sys2Proof.Machine
end

