-- ==== Sys2Proof/Certificates/Slice0/Obligations.lean ====
section
/-! DEFINITION. The statements about CSRSEQ, in the order of the spec's files. -/

open Sys2Proof Sys2Proof.Machine

/-! ## Encoding (30_encoding.md) -/

/-- Decoding the encoding of a well-formed instruction gives it back, with every operand at every value (R81, R85, R92). -/
def Obligations.DecodeEncodeAgree : Prop :=
  ∀ i : Instr, i.wellFormed = true → decode (encode i) = some i

/-- The other direction: a word the decoder accepts is exactly the word of the command it names, so no bit is ignored and
no command has two words (R87, R90). -/
def Obligations.AcceptedWordNamesOneCommand : Prop :=
  ∀ (w : CmdWord) (i : Instr), decodeCommand w = .ok i → i.wellFormed = true ∧ isCommand i = true ∧ encode i = .command w

/-- The decoder on every word, field by field, in the order of R90; every word is four such fields. -/
def Obligations.DecoderChecksInOrder : Prop :=
  (∀ w : CmdWord, ∃ (op reg : BitVec 4) (mask : BitVec 8) (operand : BitVec 16), w = op ++ reg ++ mask ++ operand) ∧
  ∀ (op reg : BitVec 4) (mask : BitVec 8) (operand : BitVec 16),
    decodeCommand (op ++ reg ++ mask ++ operand) =
      if 8 ≤ op.toNat then .error .OPCODE
      else if op.toNat = 0 then
        if mask.toNat ≠ 0 ∨ operand.toNat ≠ 0 then .error .FORMAT
        else if 10 < reg.toNat then .error .REG
        else .ok (.read reg)
      else if op.toNat = 1 then
        if 256 ≤ operand.toNat then .error .FORMAT
        else if 10 < reg.toNat then .error .REG
        else if 8 ≤ reg.toNat then .error .RO
        else .ok (.update reg mask (BitVec.ofNat 8 operand.toNat))
      else if op.toNat = 7 then
        if reg.toNat ≠ 0 ∨ mask.toNat ≠ 0 then .error .FORMAT else .ok (.setIchgMa operand)
      else if reg.toNat ≠ 0 ∨ mask.toNat ≠ 0 ∨ operand.toNat ≠ 0 then .error .FORMAT
      else if op.toNat = 2 then .ok .disableWatchdog
      else if op.toNat = 3 then .ok .resetWatchdog
      else if op.toNat = 4 then .ok .status
      else if op.toNat = 5 then .ok .newFault
      else .ok .getIchgMa

/-- R91's match and mask with its value checks, for every row: they hold of exactly the words that decode to the row. -/
def Obligations.MatchAndMaskSpellCommands : Prop :=
  ∀ w : CmdWord,
    ((w &&& 0xF0FFFFFF#32 = 0x00000000#32 ∧ w.toNat / 2 ^ 24 % 16 ≤ 10) ↔
      decodeCommand w = .ok (.read (BitVec.ofNat 4 (w.toNat / 2 ^ 24)))) ∧
    ((w &&& 0xF000FF00#32 = 0x10000000#32 ∧ w.toNat / 2 ^ 24 % 16 ≤ 7) ↔
      decodeCommand w = .ok (.update (BitVec.ofNat 4 (w.toNat / 2 ^ 24)) (BitVec.ofNat 8 (w.toNat / 2 ^ 16))
        (BitVec.ofNat 8 w.toNat))) ∧
    (w &&& 0xFFFFFFFF#32 = 0x20000000#32 ↔ decodeCommand w = .ok .disableWatchdog) ∧
    (w &&& 0xFFFFFFFF#32 = 0x30000000#32 ↔ decodeCommand w = .ok .resetWatchdog) ∧
    (w &&& 0xFFFFFFFF#32 = 0x40000000#32 ↔ decodeCommand w = .ok .status) ∧
    (w &&& 0xFFFFFFFF#32 = 0x50000000#32 ↔ decodeCommand w = .ok .newFault) ∧
    (w &&& 0xFFFFFFFF#32 = 0x60000000#32 ↔ decodeCommand w = .ok .getIchgMa) ∧
    (w &&& 0xFFFF0000#32 = 0x70000000#32 ↔ decodeCommand w = .ok (.setIchgMa (BitVec.ofNat 16 w.toNat)))

/-- Words written out from the spec (R98, 95_test_vectors.md 2.7). -/
def Obligations.ReferenceWordsDecode : Prop :=
  decodeTableWord 32 0x0A000000 = some (.read 0xA#4) ∧
  decodeTableWord 32 0x08000000 = some (.read 0x8#4) ∧
  decodeTableWord 32 0x15080000 = some (.update 0x5#4 0x08#8 0x00#8) ∧
  decodeTableWord 32 0x127C0018 = some (.update 0x2#4 0x7C#8 0x18#8) ∧
  decodeTableWord 32 0x20000000 = some .disableWatchdog ∧
  decodeTableWord 32 0x30000000 = some .resetWatchdog ∧
  decodeTableWord 32 0x40000000 = some .status ∧
  decodeTableWord 32 0x50000000 = some .newFault ∧
  decodeTableWord 32 0x60000000 = some .getIchgMa ∧
  decodeTableWord 32 0x700003E8 = some (.setIchgMa 1000#16) ∧
  decodeTableWord 32 0x70002710 = some (.setIchgMa 10000#16) ∧
  decodeTableWord 8 0x0 = some .decPoc ∧
  decodeTableWord 8 0xB = some .maToIchg ∧
  decodeTableWord 8 0xC = none ∧
  decodeTableWord 32 0x80000000 = none

/-- The function select of R92. -/
def Obligations.FunctionSelectTable : Prop :=
  decodeFn 0x0#4 = .ok .decPoc ∧ decodeFn 0x1#4 = .ok .encPoc ∧ decodeFn 0x2#4 = .ok .decCcc ∧
  decodeFn 0x3#4 = .ok .encCcc ∧ decodeFn 0x4#4 = .ok .decTtc ∧ decodeFn 0x5#4 = .ok .encTtc ∧
  decodeFn 0x6#4 = .ok .decSs ∧ decodeFn 0x7#4 = .ok .encSs ∧ decodeFn 0x8#4 = .ok .decNf ∧
  decodeFn 0x9#4 = .ok .encNf ∧ decodeFn 0xA#4 = .ok .ichgToMa ∧ decodeFn 0xB#4 = .ok .maToIchg ∧
  ∀ fn : FnSel, 0xC ≤ fn.toNat → decodeFn fn = .error .codecFunctionReserved

/-- A reserved select gives no output in any state and a model refuses it (R136, U11). That the refusal is an outcome that stops
the machine, and no response, is read from the spec by inference: log entry 7. -/
def Obligations.ReservedSelectIsRefused : Prop :=
  ∀ (s : State) (fn : FnSel) (ins : CodecIn) (rest : List Event), 0xC ≤ fn.toNat → s.script = .codec fn ins :: rest →
    step s = .refused (.codecFunctionReserved fn)

/-- A step runs the decoded instruction: an accepted word, latched, with its event taken from the script; the latched
command again at the transport's answer; a CODEC function on the ports the host drives. The script is log entry 1. -/
def Obligations.StepRunsDecodedInstruction : Prop :=
  (∀ (s : State) (w : CmdWord) (i : Instr) (rest : List Event), s.phase = .idle → s.script = .accept w :: rest →
    decodeCommand w = .ok i → step s = exec i { s with cmd := some w, script := rest }) ∧
  (∀ (s : State) (w : CmdWord) (i : Instr) (r : ReadResult) (rest : List Event), s.phase = .rdWait →
    s.script = .readAnswer r :: rest → s.cmd = some w → decodeCommand w = .ok i → step s = exec i s) ∧
  (∀ (s : State) (w : CmdWord) (i : Instr) (r : WriteResult) (rest : List Event), s.phase = .wrWait →
    s.script = .writeAnswer r :: rest → s.cmd = some w → decodeCommand w = .ok i → step s = exec i s) ∧
  (∀ (s : State) (fn : FnSel) (ins : CodecIn) (i : Instr) (rest : List Event), s.script = .codec fn ins :: rest →
    decodeFn fn = .ok i → step s = exec i { s with codecIn := ins, script := rest })

/-- `withFetchWord` presents the spelling of a well-formed instruction, a command's word or a CODEC select, from every state, so
that the next step runs it (the model's placing of a program, log entry 12). -/
def Obligations.PresentedInstructionRunsNext : Prop :=
  (∀ (s : State) (i : Instr) (w : CmdWord), i.wellFormed = true → encode i = .command w → s.phase = .idle →
    step (s.withFetchWord 32 w.toNat) = exec i { s with cmd := some w }) ∧
  (∀ (s : State) (i : Instr) (w : CmdWord), i.wellFormed = true → encode i = .command w → s.phase ≠ .idle →
    step (s.withFetchWord 32 w.toNat) = exec i { s with phase := .idle, cmd := some w, old := none, new := none }) ∧
  (∀ (s : State) (i : Instr) (fn : FnSel), encode i = .codec fn → s.phase = .idle →
    step (s.withFetchWord 8 fn.toNat) = exec i s) ∧
  (∀ (s : State) (i : Instr) (fn : FnSel), encode i = .codec fn → s.phase ≠ .idle →
    step (s.withFetchWord 8 fn.toNat) = exec i { s with phase := .idle, cmd := none, old := none, new := none })

/-! ## The assembler (30_encoding.md R94 to R97) -/

/-- Lines of R98, 95_test_vectors.md Part 3 and R97, assembled from their text. -/
def Obligations.ReferenceLinesAssemble : Prop :=
  assemble "READ VPR" = some 0x0A000000#32 ∧
  assemble "READ_ID" = some 0x0A000000#32 ∧
  assemble "UPDATE TTC, 0x08, 0x00" = some 0x15080000#32 ∧
  assemble "SETF TTC.en_timer, false" = some 0x15080000#32 ∧
  assemble "SETF TTC.watchdog, Disabled" = some 0x15300000#32 ∧
  assemble "SETF POC.watchdog_reset, true" = some 0x11400040#32 ∧
  assemble "UPDATE SS, 0xFF, 0x00" = some 0x18FF0000#32 ∧
  assemble "SET_ICHG_MA 10000" = some 0x70002710#32 ∧
  assemble "READ 11" = some 0x0B000000#32 ∧
  assemble "READ 70000" = none ∧
  assemble "SET_ICHG_MA 70000" = none

/-- R95: the eleven register symbols, each assembled as the number it stands for. -/
def Obligations.RegisterSymbolsAssemble : Prop :=
  assemble "READ ISC" = some 0x00000000#32 ∧ assemble "READ POC" = some 0x01000000#32 ∧
  assemble "READ CCC" = some 0x02000000#32 ∧ assemble "READ PCT" = some 0x03000000#32 ∧
  assemble "READ CVC" = some 0x04000000#32 ∧ assemble "READ TTC" = some 0x05000000#32 ∧
  assemble "READ BTR" = some 0x06000000#32 ∧ assemble "READ MOC" = some 0x07000000#32 ∧
  assemble "READ SS" = some 0x08000000#32 ∧ assemble "READ NF" = some 0x09000000#32 ∧
  assemble "READ VPR" = some 0x0A000000#32

/-- A literal that does not fit its field is an assembly error, and one that fits is not: READ, UPDATE, SET_ICHG_MA and
WRITEB with every literal (R94, R96). -/
def Obligations.LiteralsMustFit : Prop :=
  (∀ reg : Nat, (emitLine (.read reg)).isSome = decide (reg < 16)) ∧
  (∀ reg mask data : Nat, (emitLine (.update reg mask data)).isSome = decide (reg < 16 ∧ mask < 256 ∧ data < 256)) ∧
  (∀ ma : Nat, (emitLine (.setIchgMa ma)).isSome = decide (ma < 65536)) ∧
  (∀ reg byte : Nat, (emitLine (.writeb reg byte)).isSome = decide (reg < 16 ∧ byte < 256))

/-- `SETF` on every field of POC, CCC and TTC, at every value, assembles to an UPDATE of that register whose mutator is the
field-set mutator (R96, R137); on System Status and New Fault it is an assembly error (R96). That the reserved members
`reserved0`, `reserved6` and `reserved7` are fields `SETF` takes is the model's choice: log entry 13. -/
def Obligations.SetfAssemblesFieldSet : Prop :=
  ∀ f : FieldSet,
    if f.reg = .POC ∨ f.reg = .CCC ∨ f.reg = .TTC then
      ∃ w mask data, emitLine (.setf f) = some w ∧
        decodeCommand w = .ok (.update ((regNameAddr f.reg).setWidth 4) mask data) ∧
        ∀ b : Byte, (b &&& ~~~mask) ||| (data &&& mask) = setField f b
    else emitLine (.setf f) = none

/-- `WRITEB`, `TOUCH` and `READ_ID` are the commands R96 expands them to. -/
def Obligations.PseudoInstructionsExpand : Prop :=
  (∀ reg byte : Nat, emitLine (.writeb reg byte) = emitLine (.update reg 0xFF byte)) ∧
  (∀ reg : Nat, emitLine (.touch reg) = emitLine (.update reg 0x00 0x00)) ∧
  emitLine .readId = some 0x0A000000#32

/-- The assembler never emits a word that SEQ refuses for its opcode or its format (R94, R87, R88). -/
def Obligations.AssembledWordsAreWellFormatted : Prop :=
  ∀ (l : AsmLine) (w : CmdWord), emitLine l = some w →
    decodeCommand w ≠ .error .OPCODE ∧ decodeCommand w ≠ .error .FORMAT

/-! ## CODEC (41_codec.md) -/

/-- The enumeration tables (R111 to R116), and that each pair is a closed bijection (R117). -/
def Obligations.EnumerationsAreBijections : Prop :=
  (decBoostLim 0#1 = .A1_0 ∧ decBoostLim 1#1 = .A1_5) ∧
  (decChgTimer 0#2 = .H5 ∧ decChgTimer 1#2 = .H8 ∧ decChgTimer 2#2 = .H12 ∧ decChgTimer 3#2 = .H20) ∧
  (decWatchdog 0#2 = .Disabled ∧ decWatchdog 1#2 = .S40 ∧ decWatchdog 2#2 = .S80 ∧ decWatchdog 3#2 = .S160) ∧
  (decVbus 0#2 = .Unknown ∧ decVbus 1#2 = .UsbHost ∧ decVbus 2#2 = .AdapterPort ∧ decVbus 3#2 = .Otg) ∧
  (decChrg 0#2 = .NotCharging ∧ decChrg 1#2 = .PreCharge ∧ decChrg 2#2 = .FastCharging ∧
    decChrg 3#2 = .ChargeTermination) ∧
  (decChrgFault 0#2 = .Normal ∧ decChrgFault 1#2 = .InputFault ∧ decChrgFault 2#2 = .ThermalShutdown ∧
    decChrgFault 3#2 = .ChargeTimerExpiration) ∧
  ClosedBijection decBoostLim encBoostLim ∧ ClosedBijection decChgTimer encChgTimer ∧
  ClosedBijection decWatchdog encWatchdog ∧ ClosedBijection decVbus encVbus ∧ ClosedBijection decChrg encChrg ∧
  ClosedBijection decChrgFault encChrgFault

/-- The five decode functions, as CODEC presents them: every field from its bits, read as a number (R118, R120, R122, R126,
R128); nothing but the output port changes. -/
def Obligations.CodecDecodesFields : Prop :=
  ∀ (s : State) (n : Nat), n = s.codecIn.bin.toNat →
    exec .decPoc s = .next { s with codecOut := some (.poc {
      boost_current_limit := pick2 n .A1_0 .A1_5
      sys_min := BitVec.ofNat 3 (n / 2)
      en_charge := n.testBit 4
      en_otg := n.testBit 5
      watchdog_reset := n.testBit 6
      register_reset := n.testBit 7 }) } ∧
    exec .decCcc s = .next { s with codecOut := some (.ccc {
      force_20pct := n.testBit 0
      bcold := n.testBit 1
      ichg := BitVec.ofNat 5 (n / 4)
      reserved7 := BitVec.ofNat 1 (n / 128) }) } ∧
    exec .decTtc s = .next { s with codecOut := some (.ttc {
      reserved0 := BitVec.ofNat 1 n
      charge_timer := pick4 (n / 2) .H5 .H8 .H12 .H20
      en_timer := n.testBit 3
      watchdog := pick4 (n / 16) .Disabled .S40 .S80 .S160
      reserved6 := BitVec.ofNat 1 (n / 64)
      en_term := n.testBit 7 }) } ∧
    exec .decSs s = .next { s with codecOut := some (.ss {
      vsys := n.testBit 0
      therm := n.testBit 1
      pg := n.testBit 2
      dpm := n.testBit 3
      chrg := pick4 (n / 16) .NotCharging .PreCharge .FastCharging .ChargeTermination
      vbus := pick4 (n / 64) .Unknown .UsbHost .AdapterPort .Otg }) } ∧
    exec .decNf s = .next { s with codecOut := some (.nf {
      ntc_hot := n.testBit 0
      ntc_cold := n.testBit 1
      reserved2 := BitVec.ofNat 1 (n / 4)
      bat_fault := n.testBit 3
      chrg_fault := pick4 (n / 16) .Normal .InputFault .ThermalShutdown .ChargeTimerExpiration
      otg_fault := n.testBit 6
      watchdog_expired := n.testBit 7 }) }

/-- The five encode functions, as CODEC presents them: the byte as a sum of its fields at their places (R119, R121, R123,
R127, R129); nothing but the output port changes. -/
def Obligations.CodecEncodesFields : Prop :=
  ∀ s : State,
    (∀ v, v = s.codecIn.poc →
      exec .encPoc s = .next { s with codecOut := some (.bout (BitVec.ofNat 8
        (128 * v.register_reset.toNat + 64 * v.watchdog_reset.toNat + 32 * v.en_otg.toNat + 16 * v.en_charge.toNat
          + 2 * v.sys_min.toNat + (encBoostLim v.boost_current_limit).toNat))) }) ∧
    (∀ v, v = s.codecIn.ccc →
      exec .encCcc s = .next { s with codecOut := some (.bout (BitVec.ofNat 8
        (128 * v.reserved7.toNat + 4 * v.ichg.toNat + 2 * v.bcold.toNat + v.force_20pct.toNat))) }) ∧
    (∀ v, v = s.codecIn.ttc →
      exec .encTtc s = .next { s with codecOut := some (.bout (BitVec.ofNat 8
        (128 * v.en_term.toNat + 64 * v.reserved6.toNat + 16 * (encWatchdog v.watchdog).toNat + 8 * v.en_timer.toNat
          + 2 * (encChgTimer v.charge_timer).toNat + v.reserved0.toNat))) }) ∧
    (∀ v, v = s.codecIn.ss →
      exec .encSs s = .next { s with codecOut := some (.bout (BitVec.ofNat 8
        (64 * (encVbus v.vbus).toNat + 16 * (encChrg v.chrg).toNat + 8 * v.dpm.toNat + 4 * v.pg.toNat
          + 2 * v.therm.toNat + v.vsys.toNat))) }) ∧
    (∀ v, v = s.codecIn.nf →
      exec .encNf s = .next { s with codecOut := some (.bout (BitVec.ofNat 8
        (128 * v.watchdog_expired.toNat + 64 * v.otg_fault.toNat + 16 * (encChrgFault v.chrg_fault).toNat
          + 8 * v.bat_fault.toNat + 4 * v.reserved2.toNat + 2 * v.ntc_cold.toNat + v.ntc_hot.toNat))) })

/-- The two unit converters, as CODEC presents them (R130, R131): the exact value for all 32 codes, never above 2496; the
clamp and the truncating division, never above 24. -/
def Obligations.CodecConvertsUnits : Prop :=
  (∀ s : State, ∃ ma : Half, exec .ichgToMa s = .next { s with codecOut := some (.mout ma) } ∧
    ma.toNat = s.codecIn.iin.toNat * 64 + 512 ∧ ma.toNat ≤ 2496) ∧
  (∀ s : State, ∃ c : IchgCode, exec .maToIchg s = .next { s with codecOut := some (.iout c) } ∧
    c.toNat = (min (max s.codecIn.min.toNat 512) 2048 - 512) / 64 ∧ c.toNat ≤ 24)

/-- R132: encoding the decode of any byte gives the byte. -/
def Obligations.ByteRoundTrip : Prop :=
  ∀ b : Byte, encPoc (decPoc b) = b ∧ encCcc (decCcc b) = b ∧ encTtc (decTtc b) = b ∧ encSs (decSs b) = b ∧
    encNf (decNf b) = b

/-- R133: decoding the encoding of any view gives the view. -/
def Obligations.ViewRoundTrip : Prop :=
  (∀ v : PocView, decPoc (encPoc v) = v) ∧ (∀ v : CccView, decCcc (encCcc v) = v) ∧
  (∀ v : TtcView, decTtc (encTtc v) = v) ∧ (∀ v : SsView, decSs (encSs v) = v) ∧ (∀ v : NfView, decNf (encNf v) = v)

/-- R134: setting one field of a decoded byte and encoding it changes the field's bits to the value's code and no other
bit, for every field of every layout and every value. -/
def Obligations.FieldIsolation : Prop :=
  ∀ (f : FieldSet) (b : Byte),
    setField f b = (b &&& ~~~f.mask) ||| ((f.code <<< f.lo) &&& f.mask) ∧ setField f b &&& ~~~f.mask = b &&& ~~~f.mask

/-- R135: the conversions undo each other on the clamped domain, saturate at 24, are monotone, and never round up. -/
def Obligations.ConversionLaws : Prop :=
  (∀ k : Nat, k ≤ 24 → ichgToMa (maToIchg (BitVec.ofNat 16 (512 + 64 * k))) = BitVec.ofNat 16 (512 + 64 * k)) ∧
  (∀ c : IchgCode, (maToIchg (ichgToMa c)).toNat = min c.toNat 24) ∧
  (∀ m n : Half, m.toNat ≤ n.toNat → (maToIchg m).toNat ≤ (maToIchg n).toNat) ∧
  (∀ m : Half, (ichgToMa (maToIchg m)).toNat ≤ max m.toNat 512)

/-! ## SEQ commands (42_sequencer.md) -/

/-- `READ reg` at each of its events, and the words it refuses (R150). -/
def Obligations.ReadCommand : Prop :=
  (∀ reg : RegIndex, reg.toNat ≤ 10 →
    RunsReadSequence (.read reg) (reg.setWidth 8) (fun b => b.setWidth 16) (fun _ => none)) ∧
  (∀ w : CmdWord, w.toNat / 2 ^ 28 = 0x0 → w &&& 0x00FFFFFF#32 ≠ 0#32 → WordRefused w 0x0002#16) ∧
  (∀ w : CmdWord, w.toNat / 2 ^ 28 = 0x0 → w &&& 0x00FFFFFF#32 = 0#32 → 10 < w.toNat / 2 ^ 24 → WordRefused w 0x0003#16)

/-- `UPDATE reg, mask, data` at each of its events, and the words it refuses (R151). -/
def Obligations.UpdateCommand : Prop :=
  (∀ (reg : RegIndex) (mask data : Byte), reg.toNat ≤ 7 →
    RunsRmwSequence (.update reg mask data) (reg.setWidth 8) (fun b => (b &&& ~~~mask) ||| (data &&& mask))) ∧
  (∀ w : CmdWord, w.toNat / 2 ^ 28 = 0x1 → w &&& 0x0000FF00#32 ≠ 0#32 → WordRefused w 0x0002#16) ∧
  (∀ w : CmdWord, w.toNat / 2 ^ 28 = 0x1 → w &&& 0x0000FF00#32 = 0#32 → 10 < w.toNat / 2 ^ 24 % 16 →
    WordRefused w 0x0003#16) ∧
  (∀ w : CmdWord, w.toNat / 2 ^ 28 = 0x1 → w &&& 0x0000FF00#32 = 0#32 → 8 ≤ w.toNat / 2 ^ 24 % 16 →
    w.toNat / 2 ^ 24 % 16 ≤ 10 → WordRefused w 0x0004#16)

/-- `DISABLE_WATCHDOG` at each of its events, and the words it refuses (R156): one read of 0x05 and one write of 0x05 with
bit 3 cleared. -/
def Obligations.DisableWatchdogCommand : Prop :=
  RunsRmwSequence .disableWatchdog 0x05#8 (fun b => b &&& 0xF7#8) ∧
  (∀ b : Byte, setField (.ttc (.en_timer false)) b = b &&& 0xF7#8) ∧
  (∀ w : CmdWord, w.toNat / 2 ^ 28 = 0x2 → w ≠ 0x20000000#32 → WordRefused w 0x0002#16)

/-- `RESET_WATCHDOG` at each of its events, and the words it refuses (R157): bit 6 of 0x01 is written as 1. -/
def Obligations.ResetWatchdogCommand : Prop :=
  RunsRmwSequence .resetWatchdog 0x01#8 (fun b => b ||| 0x40#8) ∧
  (∀ b : Byte, setField (.poc (.watchdog_reset true)) b = b ||| 0x40#8) ∧
  (∀ w : CmdWord, w.toNat / 2 ^ 28 = 0x3 → w ≠ 0x30000000#32 → WordRefused w 0x0002#16)

/-- `STATUS` at each of its events, and the words it refuses (R158): the byte of 0x08 and its view. -/
def Obligations.StatusCommand : Prop :=
  RunsReadSequence .status 0x08#8 (fun b => b.setWidth 16) (fun b => some (.ss (decSs b))) ∧
  (∀ w : CmdWord, w.toNat / 2 ^ 28 = 0x4 → w ≠ 0x40000000#32 → WordRefused w 0x0002#16)

/-- `NEW_FAULT` at each of its events, and the words it refuses (R159): the byte of 0x09 and its view. -/
def Obligations.NewFaultCommand : Prop :=
  RunsReadSequence .newFault 0x09#8 (fun b => b.setWidth 16) (fun b => some (.nf (decNf b))) ∧
  (∀ w : CmdWord, w.toNat / 2 ^ 28 = 0x5 → w ≠ 0x50000000#32 → WordRefused w 0x0002#16)

/-- `GET_ICHG_MA` at each of its events, and the words it refuses (R160): 512 + 64 times bits [6:2] of 0x02, whatever its
other bits. -/
def Obligations.GetIchgMaCommand : Prop :=
  RunsReadSequence .getIchgMa 0x02#8 (fun b => BitVec.ofNat 16 (512 + 64 * (b.toNat / 4 % 32))) (fun _ => none) ∧
  (∀ w : CmdWord, w.toNat / 2 ^ 28 = 0x6 → w ≠ 0x60000000#32 → WordRefused w 0x0002#16)

/-- `SET_ICHG_MA m` at each of its events, for every operand, and the words it refuses (R161). -/
def Obligations.SetIchgMaCommand : Prop :=
  (∀ m : Half, RunsRmwSequence (.setIchgMa m) 0x02#8
    (fun b => (b &&& 0x83#8) ||| BitVec.ofNat 8 (4 * ((min (max m.toNat 512) 2048 - 512) / 64)))) ∧
  (∀ w : CmdWord, w.toNat / 2 ^ 28 = 0x7 → w &&& 0x0FFF0000#32 ≠ 0#32 → WordRefused w 0x0002#16)

/-- Where a command stands outside its own events. While its answer does not come next it waits (R155, R196); that the meaning
then answers the same state is the model's choice: log entry 2. It stops by name in the states the spec does not have (U12; log
entries 9 and 11). A term no word spells is refused as its word is (R89; log entry 16). -/
def Obligations.CommandsOutsideTheirEvents : Prop :=
  (∀ (i : Instr) (s : State), i.wellFormed = true → isCommand i = true →
    (s.phase = .rdWait → (∀ r rest, s.script ≠ .readAnswer r :: rest) → exec i s = .next s) ∧
    (isRmw i = true → s.phase = .wrWait → (∀ r rest, s.script ≠ .writeAnswer r :: rest) → exec i s = .next s) ∧
    (isRmw i = true → s.phase = .wrWait → s.new = none → ∀ r rest, s.script = .writeAnswer r :: rest →
      exec i s = .fault (.latchHoldsNoValue .NEW)) ∧
    (isRmw i = false → s.phase = .wrWait → exec i s = .fault .readCommandInWriteWait)) ∧
  (∀ (reg : RegIndex) (s : State), 10 < reg.toNat → exec (.read reg) s = .next { s with
    phase := .idle, cmd := none, old := none, new := none, resp := some ⟨2#2, 0x0003#16, none, none⟩
    hostIndex := s.hostIndex + 1 }) ∧
  (∀ (reg : RegIndex) (mask data : Byte) (s : State), 7 < reg.toNat → exec (.update reg mask data) s = .next { s with
    phase := .idle, cmd := none, old := none, new := none
    resp := some ⟨2#2, if reg.toNat ≤ 10 then 0x0004#16 else 0x0003#16, none, none⟩
    hostIndex := s.hostIndex + 1 })

/-- R97: the named commands are the UPDATEs of R97, and STATUS and NEW_FAULT are READs but for VIEW, at every event and in
every state. -/
def Obligations.NamedCommandsAreUpdates : Prop :=
  (∀ s : State, exec .disableWatchdog s = exec (.update 0x5#4 0x08#8 0x00#8) s) ∧
  (∀ s : State, exec .resetWatchdog s = exec (.update 0x1#4 0x40#8 0x40#8) s) ∧
  (∀ (m : Half) (s : State),
    exec (.setIchgMa m) s = exec (.update 0x2#4 0x7C#8 ((maToIchg m).setWidth 8 <<< 2)) s) ∧
  (∀ s : State, dropView (exec .status s) = dropView (exec (.read 0x8#4) s)) ∧
  (∀ s : State, dropView (exec .newFault s) = dropView (exec (.read 0x9#4) s))

/-- R152 and R162: a whole RMW run from IDLE for every answer: the read, then the byte computed from it, then the write, never
skipped; no write after a failed read; and the phases and latches on the way. -/
def Obligations.RmwRunReadsThenWrites : Prop :=
  ∀ (s : State) (w : CmdWord) (i : Instr) (rest : List Event), s.phase = .idle → LatchesEmpty s →
    decodeCommand w = .ok i → isRmw i = true →
    (∀ b r, s.script = .accept w :: .readAnswer (.ok b) :: .writeAnswer r :: rest →
      (∃ u, run 1 s = .next u ∧ u.phase = .rdWait ∧ u.trace = s.trace ++ [.rd 0x6B#7 (target i) none]) ∧
      (∃ u, run 2 s = .next u ∧ u.phase = .wrWait ∧ u.old = some b ∧ u.new = some (writtenByte i b) ∧
        u.trace = s.trace ++ [.rd 0x6B#7 (target i) (some (.ok b)), .wr 0x6B#7 (target i) (writtenByte i b) none])) ∧
    (∀ b, s.script = .accept w :: .readAnswer (.ok b) :: .writeAnswer .ok :: rest →
      run 3 s = .next { s with
        script := rest, hostIndex := s.hostIndex + 1, resp := some ⟨0#2, 0x0000#16, none, none⟩
        trace := s.trace ++ [.rd 0x6B#7 (target i) (some (.ok b)),
          .wr 0x6B#7 (target i) (writtenByte i b) (some .ok)] }) ∧
    (∀ b e, s.script = .accept w :: .readAnswer (.ok b) :: .writeAnswer (.err e) :: rest →
      run 3 s = .next { s with
        script := rest, hostIndex := s.hostIndex + 1, resp := some ⟨1#2, 0x0000#16, some e, none⟩
        trace := s.trace ++ [.rd 0x6B#7 (target i) (some (.ok b)),
          .wr 0x6B#7 (target i) (writtenByte i b) (some (.err e))] }) ∧
    (∀ e, s.script = .accept w :: .readAnswer (.err e) :: rest →
      run 2 s = .next { s with
        script := rest, hostIndex := s.hostIndex + 1, resp := some ⟨1#2, 0x0000#16, some e, none⟩
        trace := s.trace ++ [.rd 0x6B#7 (target i) (some (.err e))] })

/-- R153: a whole read run from IDLE for every answer: exactly one transaction. -/
def Obligations.ReadRunIssuesOneTransaction : Prop :=
  ∀ (s : State) (w : CmdWord) (i : Instr) (rest : List Event), s.phase = .idle → LatchesEmpty s →
    decodeCommand w = .ok i → isRmw i = false →
    (∀ b, s.script = .accept w :: .readAnswer (.ok b) :: rest →
      run 2 s = .next { s with
        script := rest, hostIndex := s.hostIndex + 1, resp := some ⟨0#2, resultData i b, none, resultView i b⟩
        trace := s.trace ++ [.rd 0x6B#7 (target i) (some (.ok b))] }) ∧
    (∀ e, s.script = .accept w :: .readAnswer (.err e) :: rest →
      run 2 s = .next { s with
        script := rest, hostIndex := s.hostIndex + 1, resp := some ⟨1#2, 0x0000#16, some e, none⟩
        trace := s.trace ++ [.rd 0x6B#7 (target i) (some (.err e))] })

/-- R163: the write of an RMW command differs from the byte read in the command's own bits only. -/
def Obligations.WriteChangesOnlyTheMask : Prop :=
  ∀ (s : State) (i : Instr) (b : Byte) (rest : List Event), i.wellFormed = true → isRmw i = true → s.phase = .rdWait →
    s.script = .readAnswer (.ok b) :: rest →
    ∃ t v, exec i s = .next t ∧ t.old = some b ∧ t.new = some v ∧
      t.trace.getLast? = some (.wr 0x6B#7 (target i) v none) ∧ v &&& ~~~(changedMask i) = b &&& ~~~(changedMask i)

/-- What the transactions put on the transport's port (R60, R66): `write_read` sends the register address and receives one
byte, `write` sends the address and then the value. -/
def Obligations.PayloadsAreAddressThenValue : Prop :=
  ∀ (s : State) (i : Instr) (rest : List Event), i.wellFormed = true → isCommand i = true →
    (s.phase = .idle → ∃ t, exec i s = .next t ∧
      t.trace.map busRequest = s.trace.map busRequest ++ [.writeRead 0x6B#7 [target i] 1]) ∧
    (∀ b, isRmw i = true → s.phase = .rdWait → s.script = .readAnswer (.ok b) :: rest → ∃ t, exec i s = .next t ∧
      (t.trace.map busRequest).getLast? = some (.write 0x6B#7 [target i, writtenByte i b]))

/-- R237: what a SET writes, a GET that reads that byte reports as the operand clamped and rounded down. -/
def Obligations.SetThenGetRoundsDown : Prop :=
  ∀ (m : Half) (s : State) (b : Byte) (rest : List Event), s.phase = .rdWait → s.script = .readAnswer (.ok b) :: rest →
    ∃ t v, exec (.setIchgMa m) s = .next t ∧ t.new = some v ∧
      ∀ (u : State) (more : List Event), u.phase = .rdWait → u.script = .readAnswer (.ok v) :: more →
        ∃ u' r, exec .getIchgMa u = .next u' ∧ u'.resp = some r ∧
          r.data.toNat = 512 + 64 * ((min (max m.toNat 512) 2048 - 512) / 64) ∧ r.data.toNat ≤ max m.toNat 512

/-! ## Acceptance, errors and reset (42_sequencer.md, 60_exceptions.md, 70_reset_and_hazards.md) -/

/-- R154 in IDLE: the word is latched and its command started, or it is refused and no transaction is issued. -/
def Obligations.AcceptanceStartsOrRefuses : Prop :=
  ∀ (s : State) (w : CmdWord) (rest : List Event), s.phase = .idle → s.script = .accept w :: rest →
    (∀ i, decodeCommand w = .ok i →
      step s = .next { s with
        phase := .rdWait, cmd := some w, script := rest, trace := s.trace ++ [.rd 0x6B#7 (target i) none] }) ∧
    (∀ c, decodeCommand w = .error c → ∃ r t, step s = .next t ∧ t.resp = some r ∧ r.status = 2#2 ∧
      t.phase = .idle ∧ t.trace = s.trace)

/-- Outside IDLE SEQ accepts no command (R154, R205); the model stops there with a fault of its own, as 93 U8 allows (log
entry 4). -/
def Obligations.BusyCommandFaults : Prop :=
  ∀ (s : State) (w : CmdWord) (rest : List Event), s.phase ≠ .idle → s.script = .accept w :: rest →
    step s = .fault .commandWhileBusy

/-- R192 and R193's codes: a refused word ends at once with REFUSED and its code; nothing else changes. -/
def Obligations.RefusedWordGetsItsCode : Prop :=
  ∀ (w : CmdWord) (c : RefusalCode), decodeCommand w = .error c →
    WordRefused w (match c with | .OPCODE => 0x0001#16 | .FORMAT => 0x0002#16 | .REG => 0x0003#16 | .RO => 0x0004#16)

/-- R190: a transport failure ends the command at once, with the error verbatim, in IDLE, and with no further
transaction. -/
def Obligations.BusErrorEndsCommand : Prop :=
  ∀ (s : State) (e : BusError) (rest : List Event), SeqInv s →
    ((s.phase = .rdWait ∧ s.script = .readAnswer (.err e) :: rest) ∨
      (s.phase = .wrWait ∧ s.script = .writeAnswer (.err e) :: rest)) →
    ∃ t, step s = .next t ∧ t.resp = some ⟨1#2, 0x0000#16, some e, none⟩ ∧ t.phase = .idle ∧ LatchesEmpty t ∧
      t.trace.map busRequest = s.trace.map busRequest

/-- R24 and R199: a step either writes no response (a reset clears it) or ends a command, with the response written, SEQ in
IDLE and no latch holding a value; the host counts exactly the responses (R21). -/
def Obligations.ResponseOnlyAtCommandEnd : Prop :=
  ∀ s t : State, step s = .next t →
    (t.hostIndex = s.hostIndex ∧ (t.resp = s.resp ∨ (t.resp = none ∧ ∃ rest, s.script = .reset :: rest))) ∨
    (t.hostIndex = s.hostIndex + 1 ∧ t.resp ≠ none ∧ t.phase = .idle ∧ LatchesEmpty t)

/-- R220: the Reset event, in every phase. -/
def Obligations.ResetEvent : Prop :=
  ∀ (s : State) (rest : List Event), s.script = .reset :: rest →
    step s = .next { s with phase := .idle, cmd := none, old := none, new := none, resp := none, script := rest }

/-- R29: the values of SEQ's state at the start of a run, and that a reset during a run leaves `T` as it is. -/
def Obligations.ResetValues : Prop :=
  (State.reset.phase = .idle ∧ State.reset.cmd = none ∧ State.reset.old = none ∧ State.reset.new = none ∧
    State.reset.resp = none ∧ State.reset.trace = []) ∧
  ∀ (s : State) (rest : List Event), s.script = .reset :: rest →
    ∃ t, step s = .next t ∧ t.phase = .idle ∧ LatchesEmpty t ∧ t.resp = none ∧ t.trace = s.trace

/-- R155, R221: an answer outside its wait phase is no event of SEQ; the model takes it from the script and changes nothing
else (log entry 3). -/
def Obligations.LateAnswersChangeNothing : Prop :=
  (∀ (s : State) (r : ReadResult) (rest : List Event), s.phase ≠ .rdWait → s.script = .readAnswer r :: rest →
    step s = .next { s with script := rest }) ∧
  (∀ (s : State) (r : WriteResult) (rest : List Event), s.phase ≠ .wrWait → s.script = .writeAnswer r :: rest →
    step s = .next { s with script := rest })

/-- R196: with no event to come, SEQ stays as it is for ever, in a wait phase as in IDLE (the model's standing still is log
entry 2). -/
def Obligations.UnansweredStaysForever : Prop :=
  ∀ (s : State) (n : Nat), s.script = [] → run n s = .next s

/-- R205, R240: a command whose transactions are answered ends, with one response, in at most three events. -/
def Obligations.AnsweredCommandEnds : Prop :=
  ∀ (s : State) (w : CmdWord) (r1 : ReadResult) (r2 : WriteResult) (rest : List Event), s.phase = .idle →
    s.script = .accept w :: .readAnswer r1 :: .writeAnswer r2 :: rest →
    ∃ n t, 1 ≤ n ∧ n ≤ 3 ∧ run n s = .next t ∧ t.phase = .idle ∧ LatchesEmpty t ∧ t.resp ≠ none ∧
      t.hostIndex = s.hostIndex + 1

/-! ## Invariants and whole-machine properties -/

/-- Every step keeps what SEQ holds in each phase (R22, R23, R61, R62, R152). -/
def Obligations.StepKeepsSeqInv : Prop :=
  ∀ s t : State, SeqInv s → step s = .next t → SeqInv t

/-- Every step keeps the response register at a response the spec allows; STATUS 3 is never produced (R24, R165, R193,
U13). -/
def Obligations.StepKeepsRespInv : Prop :=
  ∀ s t : State, RespInv s → step s = .next t → RespInv t

/-- Every step issues only transactions SEQ may issue: bus address 0x6B, reads of 0x00 to 0x0A, writes of 0x00 to 0x07
(R62, R63, R64). -/
def Obligations.StepKeepsTraceInv : Prop :=
  ∀ s t : State, TraceInv s → step s = .next t → TraceInv t

/-- With no reset to come, every step keeps that at most one transaction is outstanding (R72). -/
def Obligations.StepKeepsOneOutstanding : Prop :=
  ∀ s t : State, SeqInv s → OneOutstanding s → step s = .next t → OneOutstanding t

/-- The state after reset meets every invariant. -/
def Obligations.ResetMeetsInvariants : Prop :=
  SeqInv State.reset ∧ RespInv State.reset ∧ TraceInv State.reset ∧ OneOutstanding State.reset

/-- The machine stops only when the host breaks its duty (R205, U8; that this is a fault is log entry 4) or selects a reserved
CODEC function (R136; that this is a refusal is log entry 7); no latch is ever read outside its window (R23, U12). A step that
answers a next state may still leave a command waiting (R196). -/
def Obligations.OnlyTheHostStopsTheMachine : Prop :=
  ∀ s : State, SeqInv s →
    (∀ r, step s = .fault r → HostBreaksDuty s ∧ r = .commandWhileBusy) ∧
    (∀ r, step s = .refused r → HostSelectsReserved s) ∧
    (¬ HostBreaksDuty s → ¬ HostSelectsReserved s → ∃ t, step s = .next t)

/-- The trace only grows (R25, R71, R72): a step keeps every transaction issued so far in its place, changes no entry but
the last, and issues at most one transaction. -/
def Obligations.TraceOnlyGrows : Prop :=
  ∀ s t : State, SeqInv s → step s = .next t →
    s.trace.dropLast <+: t.trace ∧ s.trace.map busRequest <+: t.trace.map busRequest ∧
      t.trace.length ≤ s.trace.length + 1

/-- R28: what a step does depends on nothing an earlier command left behind. States that agree on phase, latches and events step
alike, end a command with the same response, and append the same to `T`: the same entries, after the same number of last ones
taken away to be answered, and so, where SEQ is as `SeqInv` says, the same requests. -/
def Obligations.NothingCarriesOver : Prop :=
  ∀ s s' t : State, SameSeq s s' → step s = .next t →
    ∃ t', step s' = .next t' ∧ SameSeq t t' ∧ (t.hostIndex ≠ s.hostIndex → t'.resp = t.resp) ∧
      (∃ k new, k ≤ 1 ∧ Appended s t k new ∧ Appended s' t' k new) ∧
      (SeqInv s → SeqInv s' → ∃ reqs : List BusRequest,
        t.trace.map busRequest = s.trace.map busRequest ++ reqs ∧
        t'.trace.map busRequest = s'.trace.map busRequest ++ reqs)

/-- R190, R8: CSRSEQ never inspects a transport error. Renaming every error of a state by any function renames the errors of
its next state and changes nothing else. -/
def Obligations.ErrorsAreOpaque : Prop :=
  ∀ (f : BusError → BusError) (s : State), step (s.rename f) = renameOutcome f (step s)
end

