-- ==== Sys2Proof/Laws/State.lean ====
section
/-! SUPPORT. What each field of State holds after each update of Machine/Ops.lean: one lemma per field per update. -/

namespace Sys2Proof.Machine

variable (s : State)

@[simp] theorem issueRead_phase (a : RegAddr) : (issueRead a s).phase = .rdWait := rfl
@[simp] theorem issueRead_cmd (a : RegAddr) : (issueRead a s).cmd = s.cmd := rfl
@[simp] theorem issueRead_old (a : RegAddr) : (issueRead a s).old = s.old := rfl
@[simp] theorem issueRead_new (a : RegAddr) : (issueRead a s).new = s.new := rfl
@[simp] theorem issueRead_resp (a : RegAddr) : (issueRead a s).resp = s.resp := rfl
@[simp] theorem issueRead_trace (a : RegAddr) : (issueRead a s).trace = s.trace ++ [.rd Config.devAddr a none] := rfl
@[simp] theorem issueRead_codecIn (a : RegAddr) : (issueRead a s).codecIn = s.codecIn := rfl
@[simp] theorem issueRead_codecOut (a : RegAddr) : (issueRead a s).codecOut = s.codecOut := rfl
@[simp] theorem issueRead_hostIndex (a : RegAddr) : (issueRead a s).hostIndex = s.hostIndex := rfl
@[simp] theorem issueRead_script (a : RegAddr) : (issueRead a s).script = s.script := rfl

@[simp] theorem settleRead_phase (a : RegAddr) (r : ReadResult) : (settleRead a r s).phase = s.phase := rfl
@[simp] theorem settleRead_cmd (a : RegAddr) (r : ReadResult) : (settleRead a r s).cmd = s.cmd := rfl
@[simp] theorem settleRead_old (a : RegAddr) (r : ReadResult) : (settleRead a r s).old = s.old := rfl
@[simp] theorem settleRead_new (a : RegAddr) (r : ReadResult) : (settleRead a r s).new = s.new := rfl
@[simp] theorem settleRead_resp (a : RegAddr) (r : ReadResult) : (settleRead a r s).resp = s.resp := rfl
@[simp] theorem settleRead_trace (a : RegAddr) (r : ReadResult) : (settleRead a r s).trace = replaceLast s.trace (.rd Config.devAddr a (some r)) := rfl
@[simp] theorem settleRead_codecIn (a : RegAddr) (r : ReadResult) : (settleRead a r s).codecIn = s.codecIn := rfl
@[simp] theorem settleRead_codecOut (a : RegAddr) (r : ReadResult) : (settleRead a r s).codecOut = s.codecOut := rfl
@[simp] theorem settleRead_hostIndex (a : RegAddr) (r : ReadResult) : (settleRead a r s).hostIndex = s.hostIndex := rfl
@[simp] theorem settleRead_script (a : RegAddr) (r : ReadResult) : (settleRead a r s).script = s.script := rfl

@[simp] theorem issueWrite_phase (a : RegAddr) (v : Byte) : (issueWrite a v s).phase = .wrWait := rfl
@[simp] theorem issueWrite_cmd (a : RegAddr) (v : Byte) : (issueWrite a v s).cmd = s.cmd := rfl
@[simp] theorem issueWrite_old (a : RegAddr) (v : Byte) : (issueWrite a v s).old = s.old := rfl
@[simp] theorem issueWrite_new (a : RegAddr) (v : Byte) : (issueWrite a v s).new = s.new := rfl
@[simp] theorem issueWrite_resp (a : RegAddr) (v : Byte) : (issueWrite a v s).resp = s.resp := rfl
@[simp] theorem issueWrite_trace (a : RegAddr) (v : Byte) : (issueWrite a v s).trace = s.trace ++ [.wr Config.devAddr a v none] := rfl
@[simp] theorem issueWrite_codecIn (a : RegAddr) (v : Byte) : (issueWrite a v s).codecIn = s.codecIn := rfl
@[simp] theorem issueWrite_codecOut (a : RegAddr) (v : Byte) : (issueWrite a v s).codecOut = s.codecOut := rfl
@[simp] theorem issueWrite_hostIndex (a : RegAddr) (v : Byte) : (issueWrite a v s).hostIndex = s.hostIndex := rfl
@[simp] theorem issueWrite_script (a : RegAddr) (v : Byte) : (issueWrite a v s).script = s.script := rfl

@[simp] theorem settleWrite_phase (a : RegAddr) (v : Byte) (r : WriteResult) : (settleWrite a v r s).phase = s.phase := rfl
@[simp] theorem settleWrite_cmd (a : RegAddr) (v : Byte) (r : WriteResult) : (settleWrite a v r s).cmd = s.cmd := rfl
@[simp] theorem settleWrite_old (a : RegAddr) (v : Byte) (r : WriteResult) : (settleWrite a v r s).old = s.old := rfl
@[simp] theorem settleWrite_new (a : RegAddr) (v : Byte) (r : WriteResult) : (settleWrite a v r s).new = s.new := rfl
@[simp] theorem settleWrite_resp (a : RegAddr) (v : Byte) (r : WriteResult) : (settleWrite a v r s).resp = s.resp := rfl
@[simp] theorem settleWrite_trace (a : RegAddr) (v : Byte) (r : WriteResult) : (settleWrite a v r s).trace = replaceLast s.trace (.wr Config.devAddr a v (some r)) := rfl
@[simp] theorem settleWrite_codecIn (a : RegAddr) (v : Byte) (r : WriteResult) : (settleWrite a v r s).codecIn = s.codecIn := rfl
@[simp] theorem settleWrite_codecOut (a : RegAddr) (v : Byte) (r : WriteResult) : (settleWrite a v r s).codecOut = s.codecOut := rfl
@[simp] theorem settleWrite_hostIndex (a : RegAddr) (v : Byte) (r : WriteResult) : (settleWrite a v r s).hostIndex = s.hostIndex := rfl
@[simp] theorem settleWrite_script (a : RegAddr) (v : Byte) (r : WriteResult) : (settleWrite a v r s).script = s.script := rfl

@[simp] theorem takeEvent_phase (rest : List Event) : (takeEvent rest s).phase = s.phase := rfl
@[simp] theorem takeEvent_cmd (rest : List Event) : (takeEvent rest s).cmd = s.cmd := rfl
@[simp] theorem takeEvent_old (rest : List Event) : (takeEvent rest s).old = s.old := rfl
@[simp] theorem takeEvent_new (rest : List Event) : (takeEvent rest s).new = s.new := rfl
@[simp] theorem takeEvent_resp (rest : List Event) : (takeEvent rest s).resp = s.resp := rfl
@[simp] theorem takeEvent_trace (rest : List Event) : (takeEvent rest s).trace = s.trace := rfl
@[simp] theorem takeEvent_codecIn (rest : List Event) : (takeEvent rest s).codecIn = s.codecIn := rfl
@[simp] theorem takeEvent_codecOut (rest : List Event) : (takeEvent rest s).codecOut = s.codecOut := rfl
@[simp] theorem takeEvent_hostIndex (rest : List Event) : (takeEvent rest s).hostIndex = s.hostIndex := rfl
@[simp] theorem takeEvent_script (rest : List Event) : (takeEvent rest s).script = rest := rfl

@[simp] theorem setOld_phase (b : Byte) : (setOld b s).phase = s.phase := rfl
@[simp] theorem setOld_cmd (b : Byte) : (setOld b s).cmd = s.cmd := rfl
@[simp] theorem setOld_old (b : Byte) : (setOld b s).old = some b := rfl
@[simp] theorem setOld_new (b : Byte) : (setOld b s).new = s.new := rfl
@[simp] theorem setOld_resp (b : Byte) : (setOld b s).resp = s.resp := rfl
@[simp] theorem setOld_trace (b : Byte) : (setOld b s).trace = s.trace := rfl
@[simp] theorem setOld_codecIn (b : Byte) : (setOld b s).codecIn = s.codecIn := rfl
@[simp] theorem setOld_codecOut (b : Byte) : (setOld b s).codecOut = s.codecOut := rfl
@[simp] theorem setOld_hostIndex (b : Byte) : (setOld b s).hostIndex = s.hostIndex := rfl
@[simp] theorem setOld_script (b : Byte) : (setOld b s).script = s.script := rfl

@[simp] theorem setNew_phase (v : Byte) : (setNew v s).phase = s.phase := rfl
@[simp] theorem setNew_cmd (v : Byte) : (setNew v s).cmd = s.cmd := rfl
@[simp] theorem setNew_old (v : Byte) : (setNew v s).old = s.old := rfl
@[simp] theorem setNew_new (v : Byte) : (setNew v s).new = some v := rfl
@[simp] theorem setNew_resp (v : Byte) : (setNew v s).resp = s.resp := rfl
@[simp] theorem setNew_trace (v : Byte) : (setNew v s).trace = s.trace := rfl
@[simp] theorem setNew_codecIn (v : Byte) : (setNew v s).codecIn = s.codecIn := rfl
@[simp] theorem setNew_codecOut (v : Byte) : (setNew v s).codecOut = s.codecOut := rfl
@[simp] theorem setNew_hostIndex (v : Byte) : (setNew v s).hostIndex = s.hostIndex := rfl
@[simp] theorem setNew_script (v : Byte) : (setNew v s).script = s.script := rfl

@[simp] theorem endCommand_phase (r : Resp) : (endCommand r s).phase = .idle := rfl
@[simp] theorem endCommand_cmd (r : Resp) : (endCommand r s).cmd = none := rfl
@[simp] theorem endCommand_old (r : Resp) : (endCommand r s).old = none := rfl
@[simp] theorem endCommand_new (r : Resp) : (endCommand r s).new = none := rfl
@[simp] theorem endCommand_resp (r : Resp) : (endCommand r s).resp = some r := rfl
@[simp] theorem endCommand_trace (r : Resp) : (endCommand r s).trace = s.trace := rfl
@[simp] theorem endCommand_codecIn (r : Resp) : (endCommand r s).codecIn = s.codecIn := rfl
@[simp] theorem endCommand_codecOut (r : Resp) : (endCommand r s).codecOut = s.codecOut := rfl
@[simp] theorem endCommand_hostIndex (r : Resp) : (endCommand r s).hostIndex = s.hostIndex + 1 := rfl
@[simp] theorem endCommand_script (r : Resp) : (endCommand r s).script = s.script := rfl

@[simp] theorem resetSeq_phase : (resetSeq s).phase = .idle := rfl
@[simp] theorem resetSeq_cmd : (resetSeq s).cmd = none := rfl
@[simp] theorem resetSeq_old : (resetSeq s).old = none := rfl
@[simp] theorem resetSeq_new : (resetSeq s).new = none := rfl
@[simp] theorem resetSeq_resp : (resetSeq s).resp = none := rfl
@[simp] theorem resetSeq_trace : (resetSeq s).trace = s.trace := rfl
@[simp] theorem resetSeq_codecIn : (resetSeq s).codecIn = s.codecIn := rfl
@[simp] theorem resetSeq_codecOut : (resetSeq s).codecOut = s.codecOut := rfl
@[simp] theorem resetSeq_hostIndex : (resetSeq s).hostIndex = s.hostIndex := rfl
@[simp] theorem resetSeq_script : (resetSeq s).script = s.script := rfl

@[simp] theorem latchCommand_phase (w : CmdWord) : (latchCommand w s).phase = s.phase := rfl
@[simp] theorem latchCommand_cmd (w : CmdWord) : (latchCommand w s).cmd = some w := rfl
@[simp] theorem latchCommand_old (w : CmdWord) : (latchCommand w s).old = s.old := rfl
@[simp] theorem latchCommand_new (w : CmdWord) : (latchCommand w s).new = s.new := rfl
@[simp] theorem latchCommand_resp (w : CmdWord) : (latchCommand w s).resp = s.resp := rfl
@[simp] theorem latchCommand_trace (w : CmdWord) : (latchCommand w s).trace = s.trace := rfl
@[simp] theorem latchCommand_codecIn (w : CmdWord) : (latchCommand w s).codecIn = s.codecIn := rfl
@[simp] theorem latchCommand_codecOut (w : CmdWord) : (latchCommand w s).codecOut = s.codecOut := rfl
@[simp] theorem latchCommand_hostIndex (w : CmdWord) : (latchCommand w s).hostIndex = s.hostIndex := rfl
@[simp] theorem latchCommand_script (w : CmdWord) : (latchCommand w s).script = s.script := rfl

@[simp] theorem presentCodec_phase (o : CodecOut) : (presentCodec o s).phase = s.phase := rfl
@[simp] theorem presentCodec_cmd (o : CodecOut) : (presentCodec o s).cmd = s.cmd := rfl
@[simp] theorem presentCodec_old (o : CodecOut) : (presentCodec o s).old = s.old := rfl
@[simp] theorem presentCodec_new (o : CodecOut) : (presentCodec o s).new = s.new := rfl
@[simp] theorem presentCodec_resp (o : CodecOut) : (presentCodec o s).resp = s.resp := rfl
@[simp] theorem presentCodec_trace (o : CodecOut) : (presentCodec o s).trace = s.trace := rfl
@[simp] theorem presentCodec_codecIn (o : CodecOut) : (presentCodec o s).codecIn = s.codecIn := rfl
@[simp] theorem presentCodec_codecOut (o : CodecOut) : (presentCodec o s).codecOut = some o := rfl
@[simp] theorem presentCodec_hostIndex (o : CodecOut) : (presentCodec o s).hostIndex = s.hostIndex := rfl
@[simp] theorem presentCodec_script (o : CodecOut) : (presentCodec o s).script = s.script := rfl

/-! The ends of a command are `endCommand` with the response the spec gives. -/

@[simp] theorem respondOk_eq (data : Half) (view : Option RespView) :
    respondOk data view s = endCommand ⟨0#2, data, none, view⟩ s := rfl

@[simp] theorem raiseBusError_eq (e : BusError) :
    raiseBusError e s = endCommand ⟨1#2, 0#16, some e, none⟩ s := rfl

@[simp] theorem raiseRefused_eq (c : RefusalCode) :
    raiseRefused c s = endCommand ⟨2#2, refusalData c, none, none⟩ s := rfl

end Sys2Proof.Machine
end

