-- ==== Sys2Proof/Laws/Codec.lean ====
section
/-! SUPPORT. Lemmas about CODEC: the enumeration codecs undo each other, and the closed forms of the mutators SEQ uses. -/

namespace Sys2Proof.Machine

@[simp] theorem encBoostLim_decBoostLim (c : BitVec 1) : encBoostLim (decBoostLim c) = c := by revert c; decide
@[simp] theorem decBoostLim_encBoostLim (x : BoostLim) : decBoostLim (encBoostLim x) = x := by cases x <;> rfl
@[simp] theorem encChgTimer_decChgTimer (c : BitVec 2) : encChgTimer (decChgTimer c) = c := by revert c; decide
@[simp] theorem decChgTimer_encChgTimer (x : ChgTimer) : decChgTimer (encChgTimer x) = x := by cases x <;> rfl
@[simp] theorem encWatchdog_decWatchdog (c : BitVec 2) : encWatchdog (decWatchdog c) = c := by revert c; decide
@[simp] theorem decWatchdog_encWatchdog (x : Watchdog) : decWatchdog (encWatchdog x) = x := by cases x <;> rfl
@[simp] theorem encVbus_decVbus (c : BitVec 2) : encVbus (decVbus c) = c := by revert c; decide
@[simp] theorem decVbus_encVbus (x : Vbus) : decVbus (encVbus x) = x := by cases x <;> rfl
@[simp] theorem encChrg_decChrg (c : BitVec 2) : encChrg (decChrg c) = c := by revert c; decide
@[simp] theorem decChrg_encChrg (x : Chrg) : decChrg (encChrg x) = x := by cases x <;> rfl
@[simp] theorem encChrgFault_decChrgFault (c : BitVec 2) : encChrgFault (decChrgFault c) = c := by revert c; decide
@[simp] theorem decChrgFault_encChrgFault (x : ChrgFault) : decChrgFault (encChrgFault x) = x := by cases x <;> rfl

/-- Two functions that undo each other are a closed bijection (R117): distinct codes stay distinct. -/
theorem closedBijection_of_inverses {α β : Type} {dec : α → β} {enc : β → α} (h1 : ∀ c, enc (dec c) = c)
    (h2 : ∀ x, dec (enc x) = x) : ClosedBijection dec enc :=
  ⟨h1, h2, fun c d hne h => hne (by rw [← h1 c, h, h1 d])⟩

/-! Which bit of an encoded byte is which bit of which field (R119, R121, R123, R127, R129). -/

theorem encPoc_getLsbD (v : PocView) (i : Nat) : (encPoc v).getLsbD i =
      if i < 1 then (encBoostLim v.boost_current_limit).getLsbD i else
      if i < 4 then v.sys_min.getLsbD (i - 1) else
      if i < 5 then v.en_charge else
      if i < 6 then v.en_otg else
      if i < 7 then v.watchdog_reset else
      (bit v.register_reset).getLsbD (i - 7) := by
  change BitVec.getLsbD (w := 1+1+1+1+3+1) (bit v.register_reset ++ bit v.watchdog_reset ++ bit v.en_otg ++ bit v.en_charge ++ v.sys_min ++ encBoostLim v.boost_current_limit) i = _
  simp only [BitVec.getLsbD_append, bit]
  grind

theorem encCcc_getLsbD (v : CccView) (i : Nat) : (encCcc v).getLsbD i =
      if i < 1 then v.force_20pct else
      if i < 2 then v.bcold else
      if i < 7 then v.ichg.getLsbD (i - 2) else
      v.reserved7.getLsbD (i - 7) := by
  change BitVec.getLsbD (w := 1+5+1+1) (v.reserved7 ++ v.ichg ++ bit v.bcold ++ bit v.force_20pct) i = _
  simp only [BitVec.getLsbD_append, bit]
  grind

theorem encTtc_getLsbD (v : TtcView) (i : Nat) : (encTtc v).getLsbD i =
      if i < 1 then v.reserved0.getLsbD i else
      if i < 3 then (encChgTimer v.charge_timer).getLsbD (i - 1) else
      if i < 4 then v.en_timer else
      if i < 6 then (encWatchdog v.watchdog).getLsbD (i - 4) else
      if i < 7 then v.reserved6.getLsbD (i - 6) else
      (bit v.en_term).getLsbD (i - 7) := by
  change BitVec.getLsbD (w := 1+1+2+1+2+1) (bit v.en_term ++ v.reserved6 ++ encWatchdog v.watchdog ++ bit v.en_timer ++ encChgTimer v.charge_timer ++ v.reserved0) i = _
  simp only [BitVec.getLsbD_append, bit]
  grind

theorem encSs_getLsbD (v : SsView) (i : Nat) : (encSs v).getLsbD i =
      if i < 1 then v.vsys else
      if i < 2 then v.therm else
      if i < 3 then v.pg else
      if i < 4 then v.dpm else
      if i < 6 then (encChrg v.chrg).getLsbD (i - 4) else
      (encVbus v.vbus).getLsbD (i - 6) := by
  change BitVec.getLsbD (w := 2+2+1+1+1+1) (encVbus v.vbus ++ encChrg v.chrg ++ bit v.dpm ++ bit v.pg ++ bit v.therm ++ bit v.vsys) i = _
  simp only [BitVec.getLsbD_append, bit]
  grind

theorem encNf_getLsbD (v : NfView) (i : Nat) : (encNf v).getLsbD i =
      if i < 1 then v.ntc_hot else
      if i < 2 then v.ntc_cold else
      if i < 3 then v.reserved2.getLsbD (i - 2) else
      if i < 4 then v.bat_fault else
      if i < 6 then (encChrgFault v.chrg_fault).getLsbD (i - 4) else
      if i < 7 then v.otg_fault else
      (bit v.watchdog_expired).getLsbD (i - 7) := by
  change BitVec.getLsbD (w := 1+1+2+1+1+1+1) (bit v.watchdog_expired ++ bit v.otg_fault ++ encChrgFault v.chrg_fault ++ bit v.bat_fault ++ v.reserved2 ++ bit v.ntc_cold ++ bit v.ntc_hot) i = _
  simp only [BitVec.getLsbD_append, bit]
  grind

/-- The mutator of DISABLE_WATCHDOG in closed form (R156). -/
theorem setField_en_timer_false (b : Byte) : setField (.ttc (.en_timer false)) b = b &&& 0xF7#8 := by
  revert b; decide

/-- The mutator of RESET_WATCHDOG in closed form (R157). -/
theorem setField_watchdog_reset_true (b : Byte) : setField (.poc (.watchdog_reset true)) b = b ||| 0x40#8 := by
  revert b; decide

/-- Setting `ichg` in closed form (R161). -/
theorem setField_ichg (c : IchgCode) (b : Byte) :
    setField (.ccc (.ichg c)) b = (b &&& 0x83#8) ||| (c.setWidth 8 <<< 2) := by
  apply BitVec.eq_of_getLsbD_eq
  intro i hi
  simp only [setField, CccSet.apply, encCcc_getLsbD, decCcc, BitVec.getLsbD_or, BitVec.getLsbD_and, BitVec.getLsbD_shiftLeft,
    BitVec.getLsbD_setWidth, BitVec.getLsbD_extractLsb']
  interval_cases i <;> simp

/-- `ICHG_TO_MA` as a number: no code overflows 16 bits (R130). -/
theorem ichgToMa_toNat (c : IchgCode) : (ichgToMa c).toNat = c.toNat * 64 + 512 := by
  have := c.isLt
  simp only [ichgToMa, Config.ichgStepMa, Config.ichgBaseMa, BitVec.toNat_ofNat]
  omega

/-- `MA_TO_ICHG` as a number: the clamped code fits 5 bits (R131). -/
theorem maToIchg_toNat (m : Half) : (maToIchg m).toNat = clampedCode m.toNat := by
  simp only [maToIchg, clampedCode, Config.maClampLo, Config.maClampHi, Config.ichgStepMa, Config.ichgBaseMa,
    BitVec.toNat_ofNat]
  omega

/-- The converter's code, widened, is the clamped code as a number (R131). -/
theorem maToIchg_setWidth (m : Half) : (maToIchg m).setWidth 8 = BitVec.ofNat 8 (clampedCode m.toNat) := by
  apply BitVec.eq_of_toNat_eq
  simp only [BitVec.toNat_setWidth, BitVec.toNat_ofNat, maToIchg_toNat]

end Sys2Proof.Machine
end

