-- ==== Sys2Proof/Laws/Decode.lean ====
section
/-! SUPPORT. The four fields of a command word (30_encoding.md R80): which bit is which, and that packing and taking apart
undo each other. -/

namespace Sys2Proof

/-- Which bit of a packed word is which bit of which field. -/
theorem packWord_getLsbD (op : BitVec 4) (reg : RegIndex) (mask : Byte) (operand : Half) (i : Nat) :
    (packWord op reg mask operand).getLsbD i =
      if i < 16 then operand.getLsbD i else if i < 24 then mask.getLsbD (i - 16)
      else if i < 28 then reg.getLsbD (i - 24) else op.getLsbD (i - 28) := by
  change BitVec.getLsbD (w := 4 + 4 + 8 + 16) (op ++ reg ++ mask ++ operand) i = _
  simp only [BitVec.getLsbD_append]
  grind

section Fields

variable (op : BitVec 4) (reg : RegIndex) (mask : Byte) (operand : Half)

@[simp] theorem opField_packWord : opField (packWord op reg mask operand) = op := by
  apply BitVec.eq_of_getLsbD_eq
  intro i hi
  simp only [opField, BitVec.getLsbD_extractLsb', packWord_getLsbD]
  grind

@[simp] theorem regField_packWord : regField (packWord op reg mask operand) = reg := by
  apply BitVec.eq_of_getLsbD_eq
  intro i hi
  simp only [regField, BitVec.getLsbD_extractLsb', packWord_getLsbD]
  grind

@[simp] theorem maskField_packWord : maskField (packWord op reg mask operand) = mask := by
  apply BitVec.eq_of_getLsbD_eq
  intro i hi
  simp only [maskField, BitVec.getLsbD_extractLsb', packWord_getLsbD]
  grind

@[simp] theorem operandField_packWord : operandField (packWord op reg mask operand) = operand := by
  apply BitVec.eq_of_getLsbD_eq
  intro i hi
  simp only [operandField, BitVec.getLsbD_extractLsb', packWord_getLsbD]
  grind

@[simp] theorem dataField_packWord : dataField (packWord op reg mask operand) = operand.setWidth 8 := by
  apply BitVec.eq_of_getLsbD_eq
  intro i hi
  simp only [dataField, BitVec.getLsbD_extractLsb', BitVec.getLsbD_setWidth, packWord_getLsbD]
  grind

/-- Every word is its four fields. -/
@[simp] theorem packWord_fields (w : CmdWord) :
    packWord (opField w) (regField w) (maskField w) (operandField w) = w := by
  apply BitVec.eq_of_getLsbD_eq
  intro i hi
  simp only [packWord_getLsbD, opField, regField, maskField, operandField, BitVec.getLsbD_extractLsb']
  grind

end Fields

end Sys2Proof
end

