-- ==== Sys2Proof/Laws/Ops.lean ====
section
/-! SUPPORT. What each shared operation of SEQ can do, said once: the equations of the two sequences by phase and answer,
and their inversions. Later proofs cite these and unfold no sequence. -/

namespace Sys2Proof.Machine

theorem takeReadAnswer_cons {s : State} {r : ReadResult} {rest : List Event} (h : s.script = .readAnswer r :: rest) :
    takeReadAnswer s = some (r, takeEvent rest s) := by
  simp only [takeReadAnswer, h]

theorem takeWriteAnswer_cons {s : State} {r : WriteResult} {rest : List Event} (h : s.script = .writeAnswer r :: rest) :
    takeWriteAnswer s = some (r, takeEvent rest s) := by
  simp only [takeWriteAnswer, h]

/-- An answer taken is the next event of the script. -/
theorem takeReadAnswer_eq_some {s s1 : State} {r : ReadResult} (h : takeReadAnswer s = some (r, s1)) :
    ∃ rest, s.script = .readAnswer r :: rest ∧ s1 = takeEvent rest s := by
  unfold takeReadAnswer at h
  split at h
  · next r' rest hs => cases h; exact ⟨rest, hs, rfl⟩
  · cases h

/-- An answer taken is the next event of the script. -/
theorem takeWriteAnswer_eq_some {s s1 : State} {r : WriteResult} (h : takeWriteAnswer s = some (r, s1)) :
    ∃ rest, s.script = .writeAnswer r :: rest ∧ s1 = takeEvent rest s := by
  unfold takeWriteAnswer at h
  split at h
  · next r' rest hs => cases h; exact ⟨rest, hs, rfl⟩
  · cases h

/-- Replacing the last entry of a trace. -/
@[simp] theorem replaceLast_concat (t : List Entry) (x e : Entry) : replaceLast (t ++ [x]) e = t ++ [e] := by
  simp [replaceLast]

/-- The last of two pending-pair entries replaced. -/
@[simp] theorem replaceLast_pair (t : List Entry) (x y e : Entry) : replaceLast (t ++ [x, y]) e = t ++ [x, e] := by
  rw [show t ++ [x, y] = (t ++ [x]) ++ [y] by simp, replaceLast_concat]; simp

/-- A step that adds to the trace keeps all of it. -/
theorem appended_of_append {s t : State} {new : List Entry} (h : t.trace = s.trace ++ new) : Appended s t 0 new := by
  simpa [Appended] using h

/-- A step that answers the last transaction keeps all but its entry. -/
theorem appended_of_replaceLast {s t : State} {e : Entry} {new : List Entry}
    (h : t.trace = replaceLast s.trace e ++ new) : Appended s t 1 (e :: new) := by
  simpa [Appended, replaceLast, List.dropLast_eq_take] using h

section Sequences

variable (a : RegAddr) (g : Byte → Half) (view : Byte → Option RespView) (f : Byte → Byte) {s : State}

/-! ## The read sequence, by event (R153) -/

theorem readSeq_idle (h : s.phase = .idle) : readSeq a g view s = .next (issueRead a s) := by
  simp only [readSeq, h]

theorem readSeq_ok {b : Byte} {rest : List Event} (h : s.phase = .rdWait) (hs : s.script = .readAnswer (.ok b) :: rest) :
    readSeq a g view s =
      .next (respondOk (g b) (view b) (setOld b (settleRead a (.ok b) (takeEvent rest s)))) := by
  simp only [readSeq, h, takeReadAnswer_cons hs, setOld_old, useLatch]

theorem readSeq_err {e : BusError} {rest : List Event} (h : s.phase = .rdWait)
    (hs : s.script = .readAnswer (.err e) :: rest) :
    readSeq a g view s = .next (raiseBusError e (settleRead a (.err e) (takeEvent rest s))) := by
  simp only [readSeq, h, takeReadAnswer_cons hs]

/-- Everything the read sequence can do. -/
theorem readSeq_cases {t : State} (h : readSeq a g view s = .next t) :
    (s.phase = .idle ∧ t = issueRead a s) ∨
    (s.phase = .rdWait ∧ takeReadAnswer s = none ∧ t = s) ∨
    (∃ e rest, s.phase = .rdWait ∧ s.script = .readAnswer (.err e) :: rest ∧
      t = raiseBusError e (settleRead a (.err e) (takeEvent rest s))) ∨
    (∃ b rest, s.phase = .rdWait ∧ s.script = .readAnswer (.ok b) :: rest ∧
      t = respondOk (g b) (view b) (setOld b (settleRead a (.ok b) (takeEvent rest s)))) := by
  cases hp : s.phase with
  | idle => rw [readSeq_idle a g view hp] at h; cases h; exact .inl ⟨rfl, rfl⟩
  | rdWait =>
    cases ht : takeReadAnswer s with
    | none => simp only [readSeq, hp, ht] at h; cases h; exact .inr (.inl ⟨rfl, rfl, rfl⟩)
    | some p =>
      obtain ⟨r, s1⟩ := p
      obtain ⟨rest, hs, -⟩ := takeReadAnswer_eq_some ht
      cases r with
      | err e => rw [readSeq_err a g view hp hs] at h; cases h; exact .inr (.inr (.inl ⟨e, rest, rfl, hs, rfl⟩))
      | ok b => rw [readSeq_ok a g view hp hs] at h; cases h; exact .inr (.inr (.inr ⟨b, rest, rfl, hs, rfl⟩))
  | wrWait => simp only [readSeq, hp] at h; cases h

/-- When the read sequence stops: only in a phase it does not have. -/
theorem readSeq_fault {r : Fault} (h : readSeq a g view s = .fault r) :
    s.phase = .wrWait ∧ r = .readCommandInWriteWait := by
  cases hp : s.phase with
  | idle => rw [readSeq_idle a g view hp] at h; cases h
  | rdWait =>
    cases ht : takeReadAnswer s with
    | none => simp only [readSeq, hp, ht] at h; cases h
    | some p =>
      obtain ⟨r, s1⟩ := p
      obtain ⟨rest, hs, -⟩ := takeReadAnswer_eq_some ht
      cases r with
      | err e => rw [readSeq_err a g view hp hs] at h; cases h
      | ok b => rw [readSeq_ok a g view hp hs] at h; cases h
  | wrWait => simp only [readSeq, hp] at h; cases h; exact ⟨rfl, rfl⟩

/-- The model refuses nothing in a read sequence. -/
theorem readSeq_ne_refused (r : Refusal) : readSeq a g view s ≠ .refused r := by
  intro h
  cases hp : s.phase with
  | idle => rw [readSeq_idle a g view hp] at h; cases h
  | rdWait =>
    cases ht : takeReadAnswer s with
    | none => simp only [readSeq, hp, ht] at h; cases h
    | some p =>
      obtain ⟨r, s1⟩ := p
      obtain ⟨rest, hs, -⟩ := takeReadAnswer_eq_some ht
      cases r with
      | err e => rw [readSeq_err a g view hp hs] at h; cases h
      | ok b => rw [readSeq_ok a g view hp hs] at h; cases h
  | wrWait => simp only [readSeq, hp] at h; cases h

/-! ## The RMW sequence, by event (R152) -/

theorem rmwSeq_idle (h : s.phase = .idle) : rmwSeq a f s = .next (issueRead a s) := by
  simp only [rmwSeq, h]

theorem rmwSeq_read_ok {b : Byte} {rest : List Event} (h : s.phase = .rdWait)
    (hs : s.script = .readAnswer (.ok b) :: rest) :
    rmwSeq a f s =
      .next (issueWrite a (f b) (setNew (f b) (setOld b (settleRead a (.ok b) (takeEvent rest s))))) := by
  simp only [rmwSeq, h, takeReadAnswer_cons hs, setOld_old, setNew_new, useLatch]

theorem rmwSeq_read_err {e : BusError} {rest : List Event} (h : s.phase = .rdWait)
    (hs : s.script = .readAnswer (.err e) :: rest) :
    rmwSeq a f s = .next (raiseBusError e (settleRead a (.err e) (takeEvent rest s))) := by
  simp only [rmwSeq, h, takeReadAnswer_cons hs]

theorem rmwSeq_write_ok {v : Byte} {rest : List Event} (h : s.phase = .wrWait) (hn : s.new = some v)
    (hs : s.script = .writeAnswer .ok :: rest) :
    rmwSeq a f s = .next (respondOk 0x0000#16 none (settleWrite a v .ok (takeEvent rest s))) := by
  simp only [rmwSeq, h, takeWriteAnswer_cons hs, takeEvent_new, hn, useLatch]

theorem rmwSeq_write_err {v : Byte} {e : BusError} {rest : List Event} (h : s.phase = .wrWait) (hn : s.new = some v)
    (hs : s.script = .writeAnswer (.err e) :: rest) :
    rmwSeq a f s = .next (raiseBusError e (settleWrite a v (.err e) (takeEvent rest s))) := by
  simp only [rmwSeq, h, takeWriteAnswer_cons hs, takeEvent_new, hn, useLatch]

/-- Everything the RMW sequence can do. -/
theorem rmwSeq_cases {t : State} (h : rmwSeq a f s = .next t) :
    (s.phase = .idle ∧ t = issueRead a s) ∨
    (s.phase = .rdWait ∧ takeReadAnswer s = none ∧ t = s) ∨
    (∃ e rest, s.phase = .rdWait ∧ s.script = .readAnswer (.err e) :: rest ∧
      t = raiseBusError e (settleRead a (.err e) (takeEvent rest s))) ∨
    (∃ b rest, s.phase = .rdWait ∧ s.script = .readAnswer (.ok b) :: rest ∧
      t = issueWrite a (f b) (setNew (f b) (setOld b (settleRead a (.ok b) (takeEvent rest s))))) ∨
    (s.phase = .wrWait ∧ takeWriteAnswer s = none ∧ t = s) ∨
    (∃ v rest, s.phase = .wrWait ∧ s.new = some v ∧ s.script = .writeAnswer .ok :: rest ∧
      t = respondOk 0x0000#16 none (settleWrite a v .ok (takeEvent rest s))) ∨
    (∃ v e rest, s.phase = .wrWait ∧ s.new = some v ∧ s.script = .writeAnswer (.err e) :: rest ∧
      t = raiseBusError e (settleWrite a v (.err e) (takeEvent rest s))) := by
  cases hp : s.phase with
  | idle => rw [rmwSeq_idle a f hp] at h; cases h; exact .inl ⟨rfl, rfl⟩
  | rdWait =>
    cases ht : takeReadAnswer s with
    | none => simp only [rmwSeq, hp, ht] at h; cases h; exact .inr (.inl ⟨rfl, rfl, rfl⟩)
    | some p =>
      obtain ⟨r, s1⟩ := p
      obtain ⟨rest, hs, -⟩ := takeReadAnswer_eq_some ht
      cases r with
      | err e => rw [rmwSeq_read_err a f hp hs] at h; cases h; exact .inr (.inr (.inl ⟨e, rest, rfl, hs, rfl⟩))
      | ok b => rw [rmwSeq_read_ok a f hp hs] at h; cases h; exact .inr (.inr (.inr (.inl ⟨b, rest, rfl, hs, rfl⟩)))
  | wrWait =>
    cases ht : takeWriteAnswer s with
    | none =>
      simp only [rmwSeq, hp, ht] at h; cases h
      exact .inr (.inr (.inr (.inr (.inl ⟨rfl, rfl, rfl⟩))))
    | some p =>
      obtain ⟨r, s1⟩ := p
      obtain ⟨rest, hs, -⟩ := takeWriteAnswer_eq_some ht
      cases hn : s.new with
      | none => simp only [rmwSeq, hp, takeWriteAnswer_cons hs, takeEvent_new, hn, useLatch] at h; cases h
      | some v =>
        cases r with
        | ok =>
          rw [rmwSeq_write_ok a f hp hn hs] at h; cases h
          exact .inr (.inr (.inr (.inr (.inr (.inl ⟨v, rest, rfl, rfl, hs, rfl⟩)))))
        | err e =>
          rw [rmwSeq_write_err a f hp hn hs] at h; cases h
          exact .inr (.inr (.inr (.inr (.inr (.inr ⟨v, e, rest, rfl, rfl, hs, rfl⟩)))))

/-- When the RMW sequence stops: only with no computed byte in its write phase. -/
theorem rmwSeq_fault {r : Fault} (h : rmwSeq a f s = .fault r) :
    s.phase = .wrWait ∧ s.new = none ∧ r = .latchHoldsNoValue .NEW := by
  cases hp : s.phase with
  | idle => rw [rmwSeq_idle a f hp] at h; cases h
  | rdWait =>
    cases ht : takeReadAnswer s with
    | none => simp only [rmwSeq, hp, ht] at h; cases h
    | some p =>
      obtain ⟨r, s1⟩ := p
      obtain ⟨rest, hs, -⟩ := takeReadAnswer_eq_some ht
      cases r with
      | err e => rw [rmwSeq_read_err a f hp hs] at h; cases h
      | ok b => rw [rmwSeq_read_ok a f hp hs] at h; cases h
  | wrWait =>
    cases ht : takeWriteAnswer s with
    | none => simp only [rmwSeq, hp, ht] at h; cases h
    | some p =>
      obtain ⟨r, s1⟩ := p
      obtain ⟨rest, hs, -⟩ := takeWriteAnswer_eq_some ht
      cases hn : s.new with
      | none =>
        simp only [rmwSeq, hp, takeWriteAnswer_cons hs, takeEvent_new, hn, useLatch] at h; cases h
        exact ⟨rfl, rfl, rfl⟩
      | some v =>
        cases r with
        | ok => rw [rmwSeq_write_ok a f hp hn hs] at h; cases h
        | err e => rw [rmwSeq_write_err a f hp hn hs] at h; cases h

/-- The model refuses nothing in an RMW sequence. -/
theorem rmwSeq_ne_refused (r : Refusal) : rmwSeq a f s ≠ .refused r := by
  intro h
  cases hp : s.phase with
  | idle => rw [rmwSeq_idle a f hp] at h; cases h
  | rdWait =>
    cases ht : takeReadAnswer s with
    | none => simp only [rmwSeq, hp, ht] at h; cases h
    | some p =>
      obtain ⟨r, s1⟩ := p
      obtain ⟨rest, hs, -⟩ := takeReadAnswer_eq_some ht
      cases r with
      | err e => rw [rmwSeq_read_err a f hp hs] at h; cases h
      | ok b => rw [rmwSeq_read_ok a f hp hs] at h; cases h
  | wrWait =>
    cases ht : takeWriteAnswer s with
    | none => simp only [rmwSeq, hp, ht] at h; cases h
    | some p =>
      obtain ⟨r, s1⟩ := p
      obtain ⟨rest, hs, -⟩ := takeWriteAnswer_eq_some ht
      cases hn : s.new with
      | none => simp only [rmwSeq, hp, takeWriteAnswer_cons hs, takeEvent_new, hn, useLatch] at h; cases h
      | some v =>
        cases r with
        | ok => rw [rmwSeq_write_ok a f hp hn hs] at h; cases h
        | err e => rw [rmwSeq_write_err a f hp hn hs] at h; cases h

end Sequences

end Sys2Proof.Machine
end

