-- ==== Sys2Proof/Laws/Step.lean ====
section
/-! SUPPORT. The meanings in the closed forms of R155's command table, and what a step can do, said once. -/

namespace Sys2Proof.Machine

/-- Every word the decoder accepts names a well-formed SEQ command. -/
theorem decodeCommand_ok_command {w : CmdWord} {i : Instr} (h : decodeCommand w = .ok i) :
    i.wellFormed = true ∧ isCommand i = true := by
  unfold decodeCommand at h
  split at h
  · cases h
  split at h
  · cases h
  split at h
  · cases h
  split at h
  · cases h
  split at h
  · cases h
  next h8 hf hr0 hr1 hro =>
  simp only [not_and, not_lt, not_le] at hr0 hr1 hro
  unfold commandOf at h
  split at h <;> cases h <;> simp only [Instr.wellFormed, isCommand, decide_eq_true_eq, and_self, and_true]
  · next h0 =>
    have := hr0 (BitVec.eq_of_toNat_eq (by simpa using h0))
    show (regField w).toNat < 11
    omega
  · next h1 =>
    have := hro (BitVec.eq_of_toNat_eq (by simpa using h1))
    show (regField w).toNat < 8
    omega

/-- Every select CODEC accepts names a function, never a SEQ command. -/
theorem decodeFn_ok_codec {fn : FnSel} {i : Instr} (h : decodeFn fn = .ok i) : isCommand i = false := by
  unfold decodeFn at h
  split at h <;> cases h <;> rfl

/-- A well-formed RMW command is the RMW sequence on its target with its closed-form mutator (R155). -/
theorem exec_rmw {i : Instr} (hw : i.wellFormed = true) (hr : isRmw i = true) (s : State) :
    exec i s = rmwSeq (target i) (writtenByte i) s := by
  cases i <;> simp only [isRmw, Bool.false_eq_true] at hr <;> simp only [exec]
  case update reg mask data =>
    simp only [Instr.wellFormed, decide_eq_true_eq] at hw
    have h8 : regWritable reg = true := decide_eq_true hw
    have h11 : regExists reg = true := decide_eq_true (by show reg.toNat < 11; have : reg.toNat < 8 := hw; omega)
    simp only [execUpdate, h8, h11, if_true]
    rfl
  case disableWatchdog =>
    have : setField (.ttc (.en_timer false)) = writtenByte .disableWatchdog := by
      funext b; exact setField_en_timer_false b
    simp only [execDisableWatchdog, this]; rfl
  case resetWatchdog =>
    have : setField (.poc (.watchdog_reset true)) = writtenByte .resetWatchdog := by
      funext b; exact setField_watchdog_reset_true b
    simp only [execResetWatchdog, this]; rfl
  case setIchgMa m =>
    have : setField (.ccc (.ichg (maToIchg m))) = writtenByte (.setIchgMa m) := by
      funext b; rw [setField_ichg, maToIchg_setWidth]; rfl
    simp only [execSetIchgMa, this]; rfl

/-- A well-formed read command is the read sequence on its target with its result functions (R155). -/
theorem exec_read {i : Instr} (hw : i.wellFormed = true) (hc : isCommand i = true) (hr : isRmw i = false) (s : State) :
    exec i s = readSeq (target i) (resultData i) (resultView i) s := by
  cases i <;> simp only [isRmw, isCommand, Bool.false_eq_true, Bool.true_eq_false] at hr hc <;> simp only [exec]
  case read reg =>
    simp only [Instr.wellFormed, decide_eq_true_eq] at hw
    have h11 : regExists reg = true := decide_eq_true hw
    simp only [execRead, h11, if_true]
    rfl
  case status => rfl
  case newFault => rfl
  case getIchgMa =>
    have : (fun b => ichgToMa (decCcc b).ichg) = resultData .getIchgMa := by
      funext b
      simp only [ichgToMa, decCcc, resultData, Config.ichgStepMa, Config.ichgBaseMa]
      congr 1; omega
    simp only [execGetIchgMa, this]; rfl

/-- A CODEC function changes the output port and nothing else (R27). -/
theorem exec_codec {i : Instr} (hc : isCommand i = false) (s : State) :
    ∃ o, exec i s = .next (presentCodec o s) := by
  cases i <;> simp only [isCommand, Bool.true_eq_false] at hc <;> exact ⟨_, rfl⟩

/-! ## One step, by the next event -/

variable {s : State} {rest : List Event}

theorem step_nil (h : s.script = []) : step s = .next s := by
  simp only [step, h, noEvent]

theorem step_accept {w : CmdWord} {i : Instr} (h : s.script = .accept w :: rest) (hp : s.phase = .idle)
    (hd : decodeCommand w = .ok i) : step s = exec i (latchCommand w (takeEvent rest s)) := by
  simp only [step, h, acceptEvent, hp, hd]

theorem step_accept_refused {w : CmdWord} {c : RefusalCode} (h : s.script = .accept w :: rest) (hp : s.phase = .idle)
    (hd : decodeCommand w = .error c) : step s = .next (raiseRefused c (latchCommand w (takeEvent rest s))) := by
  simp only [step, h, acceptEvent, hp, hd]

theorem step_accept_busy {w : CmdWord} (h : s.script = .accept w :: rest) (hp : s.phase ≠ .idle) :
    step s = .fault .commandWhileBusy := by
  cases hq : s.phase with
  | idle => exact absurd hq hp
  | rdWait => simp only [step, h, acceptEvent, hq]
  | wrWait => simp only [step, h, acceptEvent, hq]

theorem step_readAnswer {r : ReadResult} (h : s.script = .readAnswer r :: rest) (hp : s.phase = .rdWait) :
    step s = resume s := by
  simp only [step, h, readAnswerEvent, hp]

theorem step_readAnswer_late {r : ReadResult} (h : s.script = .readAnswer r :: rest) (hp : s.phase ≠ .rdWait) :
    step s = .next (takeEvent rest s) := by
  cases hq : s.phase with
  | rdWait => exact absurd hq hp
  | idle => simp only [step, h, readAnswerEvent, hq]
  | wrWait => simp only [step, h, readAnswerEvent, hq]

theorem step_writeAnswer {r : WriteResult} (h : s.script = .writeAnswer r :: rest) (hp : s.phase = .wrWait) :
    step s = resume s := by
  simp only [step, h, writeAnswerEvent, hp]

theorem step_writeAnswer_late {r : WriteResult} (h : s.script = .writeAnswer r :: rest) (hp : s.phase ≠ .wrWait) :
    step s = .next (takeEvent rest s) := by
  cases hq : s.phase with
  | wrWait => exact absurd hq hp
  | idle => simp only [step, h, writeAnswerEvent, hq]
  | rdWait => simp only [step, h, writeAnswerEvent, hq]

theorem step_reset (h : s.script = .reset :: rest) : step s = .next (resetSeq (takeEvent rest s)) := by
  simp only [step, h, resetEvent]

theorem step_codec {fn : FnSel} {ins : CodecIn} {i : Instr} (h : s.script = .codec fn ins :: rest)
    (hd : decodeFn fn = .ok i) : step s = exec i { takeEvent rest s with codecIn := ins } := by
  simp only [step, h, codecEvent, hd]

theorem step_codec_reserved {fn : FnSel} {ins : CodecIn} {r : CodecReject} (h : s.script = .codec fn ins :: rest)
    (hd : decodeFn fn = .error r) : step s = .refused (.codecFunctionReserved fn) := by
  simp only [step, h, codecEvent, hd]

theorem resume_ok {w : CmdWord} {i : Instr} (hc : s.cmd = some w) (hd : decodeCommand w = .ok i) :
    resume s = exec i s := by
  simp only [resume, hc, useLatch, hd]

/-- An answer outside its wait phase (R155, R221). -/
def LateAnswer (s : State) : Event → Prop
  | .readAnswer _ => s.phase ≠ .rdWait
  | .writeAnswer _ => s.phase ≠ .wrWait
  | .accept _ => False
  | .reset => False
  | .codec _ _ => False

/-- Everything a step can do when it answers a next state. -/
theorem step_cases {t : State} (h : step s = .next t) :
    (s.script = [] ∧ t = s) ∨
    (∃ w c rest, s.script = .accept w :: rest ∧ s.phase = .idle ∧ decodeCommand w = .error c ∧
      t = raiseRefused c (latchCommand w (takeEvent rest s))) ∨
    (∃ w i rest, s.script = .accept w :: rest ∧ s.phase = .idle ∧ decodeCommand w = .ok i ∧
      exec i (latchCommand w (takeEvent rest s)) = .next t) ∨
    (∃ w i, ((∃ r rest, s.script = .readAnswer r :: rest ∧ s.phase = .rdWait) ∨
        (∃ r rest, s.script = .writeAnswer r :: rest ∧ s.phase = .wrWait)) ∧
      s.cmd = some w ∧ decodeCommand w = .ok i ∧ exec i s = .next t) ∨
    (∃ e rest, s.script = e :: rest ∧ LateAnswer s e ∧ t = takeEvent rest s) ∨
    (∃ rest, s.script = .reset :: rest ∧ t = resetSeq (takeEvent rest s)) ∨
    (∃ fn ins i o rest, s.script = .codec fn ins :: rest ∧ decodeFn fn = .ok i ∧
      t = presentCodec o { takeEvent rest s with codecIn := ins }) := by
  have hresume : ∀ {t}, resume s = .next t →
      ∃ w i, s.cmd = some w ∧ decodeCommand w = .ok i ∧ exec i s = .next t := by
    intro t h
    cases hc : s.cmd with
    | none => simp only [resume, hc, useLatch] at h; cases h
    | some w =>
      cases hd : decodeCommand w with
      | error c => simp only [resume, hc, useLatch, hd] at h; cases h
      | ok i => rw [resume_ok hc hd] at h; exact ⟨w, i, rfl, hd, h⟩
  cases hs : s.script with
  | nil => rw [step_nil hs] at h; cases h; exact .inl ⟨rfl, rfl⟩
  | cons e rest =>
    cases e with
    | accept w =>
      by_cases hp : s.phase = .idle
      · cases hd : decodeCommand w with
        | error c =>
          rw [step_accept_refused hs hp hd] at h; cases h
          exact .inr (.inl ⟨w, c, rest, rfl, hp, hd, rfl⟩)
        | ok i =>
          rw [step_accept hs hp hd] at h
          exact .inr (.inr (.inl ⟨w, i, rest, rfl, hp, hd, h⟩))
      · rw [step_accept_busy hs hp] at h; cases h
    | readAnswer r =>
      by_cases hp : s.phase = .rdWait
      · rw [step_readAnswer hs hp] at h
        obtain ⟨w, i, hc, hd, he⟩ := hresume h
        exact .inr (.inr (.inr (.inl ⟨w, i, .inl ⟨r, rest, rfl, hp⟩, hc, hd, he⟩)))
      · rw [step_readAnswer_late hs hp] at h; cases h
        exact .inr (.inr (.inr (.inr (.inl ⟨_, rest, rfl, hp, rfl⟩))))
    | writeAnswer r =>
      by_cases hp : s.phase = .wrWait
      · rw [step_writeAnswer hs hp] at h
        obtain ⟨w, i, hc, hd, he⟩ := hresume h
        exact .inr (.inr (.inr (.inl ⟨w, i, .inr ⟨r, rest, rfl, hp⟩, hc, hd, he⟩)))
      · rw [step_writeAnswer_late hs hp] at h; cases h
        exact .inr (.inr (.inr (.inr (.inl ⟨_, rest, rfl, hp, rfl⟩))))
    | reset =>
      rw [step_reset hs] at h; cases h
      exact .inr (.inr (.inr (.inr (.inr (.inl ⟨rest, rfl, rfl⟩)))))
    | codec fn ins =>
      cases hd : decodeFn fn with
      | error r => rw [step_codec_reserved hs hd] at h; cases h
      | ok i =>
        rw [step_codec hs hd] at h
        obtain ⟨o, ho⟩ := exec_codec (decodeFn_ok_codec hd) { takeEvent rest s with codecIn := ins }
        rw [ho] at h; cases h
        exact .inr (.inr (.inr (.inr (.inr (.inr ⟨fn, ins, i, o, rest, rfl, hd, rfl⟩)))))

/-! ## Runs -/

theorem coreRun_next (M : Host.Core) (n : Nat) (s t : M.State) (h : M.step s = .next t) : M.run (n + 1) s = M.run n t := by
  rw [Host.Core.run, h]

/-- A run goes on from its first step's next state. -/
theorem run_next {n : Nat} {s t : State} (h : step s = .next t) : run (n + 1) s = run n t :=
  coreRun_next Sys2Proof.core n s t h

theorem run_zero (s : State) : run 0 s = .next s := rfl

/-! ## What a step can do, in closed form -/

/-- A well-formed command starts with the read of its target (R155). -/
theorem exec_idle {i : Instr} {s : State} (hw : i.wellFormed = true) (hc : isCommand i = true) (hp : s.phase = .idle) :
    exec i s = .next (issueRead (target i) s) := by
  cases hr : isRmw i with
  | true => rw [exec_rmw hw hr, rmwSeq_idle _ _ hp]
  | false => rw [exec_read hw hc hr, readSeq_idle _ _ _ hp]

/-- The response of an RMW command by its write's answer (R152, R165, R190). -/
def writeEnding : WriteResult → Resp
  | .ok => ⟨0#2, 0#16, none, none⟩
  | .err e => ⟨1#2, 0#16, some e, none⟩

/-- Everything a well-formed command can do, at whichever of its events. -/
theorem exec_command_cases {i : Instr} {s t : State} (hw : i.wellFormed = true) (hc : isCommand i = true) (h : exec i s = .next t) :
  (s.phase = .idle ∧ t = issueRead (target i) s) ∨
  (s.phase = .rdWait ∧ takeReadAnswer s = none ∧ t = s) ∨
  (∃ e rest, s.phase = .rdWait ∧ s.script = .readAnswer (.err e) :: rest ∧ t = raiseBusError e (settleRead (target i)
      (.err e) (takeEvent rest s))) ∨
  (isRmw i = false ∧ ∃ b rest, s.phase = .rdWait ∧ s.script = .readAnswer (.ok b) :: rest ∧
      t = respondOk (resultData i b) (resultView i b) (setOld b (settleRead (target i) (.ok b) (takeEvent rest s)))) ∨
  (isRmw i = true ∧ ∃ b rest, s.phase = .rdWait ∧ s.script = .readAnswer (.ok b) :: rest ∧
      t = issueWrite (target i) (writtenByte i b) (setNew (writtenByte i b) (setOld b (settleRead (target i) (.ok b)
      (takeEvent rest s))))) ∨
  (isRmw i = true ∧ s.phase = .wrWait ∧ takeWriteAnswer s = none ∧ t = s) ∨
  (isRmw i = true ∧ ∃ v r rest, s.phase = .wrWait ∧ s.new = some v ∧ s.script = .writeAnswer r :: rest ∧
      t = endCommand (writeEnding r)
      (settleWrite (target i) v r (takeEvent rest s))) := by
  cases hr : isRmw i with
  | true =>
    rw [exec_rmw hw hr] at h
    rcases rmwSeq_cases _ _ h with h | h | h | h | h | ⟨v,rest,a,b,c,d⟩ | ⟨v,e,rest,a,b,c,d⟩
    · exact .inl h
    · exact .inr (.inl h)
    · exact .inr (.inr (.inl h))
    · exact .inr (.inr (.inr (.inr (.inl ⟨rfl, h⟩))))
    · exact .inr (.inr (.inr (.inr (.inr (.inl ⟨rfl, h⟩)))))
    · exact .inr (.inr (.inr (.inr (.inr (.inr ⟨rfl, v, .ok, rest, a, b, c, d⟩)))))
    · exact .inr (.inr (.inr (.inr (.inr (.inr ⟨rfl, v, .err e, rest, a, b, c, d⟩)))))
  | false =>
    rw [exec_read hw hc hr] at h
    rcases readSeq_cases _ _ _ h with h | h | h | h
    · exact .inl h
    · exact .inr (.inl h)
    · exact .inr (.inr (.inl h))
    · exact .inr (.inr (.inr (.inl ⟨rfl, h⟩)))

/-- Everything a step can do, with the commands in closed form: one disjunct for each thing that can happen at an event. -/
theorem step_effects {s t : State} (h : step s = .next t) :
  (s.script = [] ∧ t = s) ∨
  (∃ w c rest, s.script = .accept w :: rest ∧ s.phase = .idle ∧ decodeCommand w = .error c ∧ t = raiseRefused c
      (latchCommand w (takeEvent rest s))) ∨
  (∃ w i rest, s.script = .accept w :: rest ∧ s.phase = .idle ∧ decodeCommand w = .ok i ∧ t = issueRead (target i)
      (latchCommand w (takeEvent rest s))) ∨
  (∃ w i e rest, s.phase = .rdWait ∧ s.script = .readAnswer (.err e) :: rest ∧ s.cmd = some w ∧ decodeCommand w = .ok i ∧ t = raiseBusError e (settleRead (target i) (.err e) (takeEvent rest s))) ∨
  (∃ w i b rest, s.phase = .rdWait ∧ s.script = .readAnswer (.ok b) :: rest ∧ s.cmd = some w ∧ decodeCommand w = .ok i ∧ isRmw i = false ∧ t = respondOk (resultData i b) (resultView i b) (setOld b (settleRead (target i) (.ok b)
      (takeEvent rest s)))) ∨
  (∃ w i b rest, s.phase = .rdWait ∧ s.script = .readAnswer (.ok b) :: rest ∧ s.cmd = some w ∧ decodeCommand w = .ok i ∧ isRmw i = true ∧ t = issueWrite (target i) (writtenByte i b) (setNew (writtenByte i b) (setOld b
      (settleRead (target i) (.ok b) (takeEvent rest s))))) ∨
  (∃ w i v r rest, s.phase = .wrWait ∧ s.script = .writeAnswer r :: rest ∧ s.cmd = some w ∧ decodeCommand w = .ok i ∧
      isRmw i = true ∧ s.new = some v ∧ t = endCommand (writeEnding r) (settleWrite (target i) v r (takeEvent rest s))) ∨
  (∃ e rest, s.script = e :: rest ∧ LateAnswer s e ∧ t = takeEvent rest s) ∨
  (∃ rest, s.script = .reset :: rest ∧ t = resetSeq (takeEvent rest s)) ∨
  (∃ fn ins i o rest, s.script = .codec fn ins :: rest ∧ decodeFn fn = .ok i ∧ t = presentCodec o { takeEvent rest s
      with codecIn := ins }) := by
  rcases step_cases h with h | h | ⟨w,i,rest,hs,hp,hd,he⟩ | ⟨w,i,ha,hc,hd,he⟩ | h | h | h
  · exact .inl h
  · exact .inr (.inl h)
  · obtain ⟨hw, hcm⟩ := decodeCommand_ok_command hd
    rw [exec_idle hw hcm (by simpa using hp)] at he
    cases he
    exact .inr (.inr (.inl ⟨w,i,rest,hs,hp,hd,rfl⟩))
  · obtain ⟨hw, hcm⟩ := decodeCommand_ok_command hd
    have := exec_command_cases hw hcm he
    rcases ha with ⟨r,rest,hs,hp⟩ | ⟨r,rest,hs,hp⟩
    · simp only [hp, takeReadAnswer_cons hs, hs] at this
      simp only [reduceCtorEq, false_and, true_and, false_or, and_false, exists_false, or_false, List.cons.injEq,
      Event.readAnswer.injEq] at this
      rcases this with ⟨e,rest',⟨rfl,rfl⟩,rfl⟩ | ⟨hr,b,rest',⟨rfl,rfl⟩,rfl⟩ | ⟨hr,b,rest',⟨rfl,rfl⟩,rfl⟩
      · exact .inr (.inr (.inr (.inl ⟨w,i,e,_,hp,hs,hc,hd,rfl⟩)))
      · exact .inr (.inr (.inr (.inr (.inl ⟨w,i,b,_,hp,hs,hc,hd,hr,rfl⟩))))
      · exact .inr (.inr (.inr (.inr (.inr (.inl ⟨w,i,b,_,hp,hs,hc,hd,hr,rfl⟩)))))
    · simp only [hp, takeWriteAnswer_cons hs, hs] at this
      simp only [reduceCtorEq, false_and, true_and, false_or, and_false, exists_false, List.cons.injEq,
      Event.writeAnswer.injEq] at this
      obtain ⟨hr,v,r',rest',hn,⟨rfl,rfl⟩,rfl⟩ := this
      exact .inr (.inr (.inr (.inr (.inr (.inr (.inl ⟨w,i,v,_,_,hp,hs,hc,hd,hr,hn,rfl⟩))))))
  · exact .inr (.inr (.inr (.inr (.inr (.inr (.inr (.inl h)))))))
  · exact .inr (.inr (.inr (.inr (.inr (.inr (.inr (.inr (.inl h))))))))
  · exact .inr (.inr (.inr (.inr (.inr (.inr (.inr (.inr (.inr h))))))))

end Sys2Proof.Machine
end

