-- ==== Sys2Proof/Laws/PerInstr.lean ====
section
/-! SUPPORT. Per instruction: the encoding of every well-formed instruction meets the match and mask of its row of
spec/opcode_table.json (30_encoding.md R91, R92). -/

namespace Sys2Proof.Laws.RowMatch

/-- `match` and `mask` of an instruction's row. -/
def row : Instr → Nat × Nat
  | .read _ => (0x00000000, 0xF0FFFFFF)
  | .update _ _ _ => (0x10000000, 0xF000FF00)
  | .disableWatchdog => (0x20000000, 0xFFFFFFFF)
  | .resetWatchdog => (0x30000000, 0xFFFFFFFF)
  | .status => (0x40000000, 0xFFFFFFFF)
  | .newFault => (0x50000000, 0xFFFFFFFF)
  | .getIchgMa => (0x60000000, 0xFFFFFFFF)
  | .setIchgMa _ => (0x70000000, 0xFFFF0000)
  | .decPoc => (0x0, 0xF)
  | .encPoc => (0x1, 0xF)
  | .decCcc => (0x2, 0xF)
  | .encCcc => (0x3, 0xF)
  | .decTtc => (0x4, 0xF)
  | .encTtc => (0x5, 0xF)
  | .decSs => (0x6, 0xF)
  | .encSs => (0x7, 0xF)
  | .decNf => (0x8, 0xF)
  | .encNf => (0x9, 0xF)
  | .ichgToMa => (0xA, 0xF)
  | .maToIchg => (0xB, 0xF)

/-- The bits of a spelling under a mask. -/
def masked (mask : Nat) : Spelling → Nat
  | .command w => (w &&& BitVec.ofNat 32 mask).toNat
  | .codec fn => (fn &&& BitVec.ofNat 4 mask).toNat

/-- The encoding of `i` meets its row. -/
def Statement (i : Instr) : Prop := i.wellFormed = true → masked (row i).2 (encode i) = (row i).1

theorem read (reg : RegIndex) : Statement (.read reg) := by
  intro _
  revert reg; decide

/-- The fixed bits of a packed UPDATE word do not depend on its operands. -/
theorem packWord_update (reg : RegIndex) (mask data : Byte) :
    packWord 0x1#4 reg mask (data.setWidth 16) &&& 0xF000FF00#32 = 0x10000000#32 := by
  apply BitVec.eq_of_getLsbD_eq
  intro i hi
  rw [BitVec.getLsbD_and]
  change (BitVec.getLsbD (w := 4 + 4 + 8 + 16) (0x1#4 ++ reg ++ mask ++ data.setWidth 16) i && _) = _
  simp only [BitVec.getLsbD_append, BitVec.getLsbD_setWidth]
  interval_cases i <;> simp

theorem packWord_setIchgMa (m : Half) : packWord 0x7#4 0#4 0#8 m &&& 0xFFFF0000#32 = 0x70000000#32 := by
  apply BitVec.eq_of_getLsbD_eq
  intro i hi
  rw [BitVec.getLsbD_and]
  change (BitVec.getLsbD (w := 4 + 4 + 8 + 16) (0x7#4 ++ 0#4 ++ 0#8 ++ m) i && _) = _
  simp only [BitVec.getLsbD_append]
  interval_cases i <;> simp

theorem update (reg : RegIndex) (mask data : Byte) : Statement (.update reg mask data) := by
  intro _
  exact congrArg BitVec.toNat (packWord_update reg mask data)

theorem disableWatchdog : Statement .disableWatchdog := by intro _; decide
theorem resetWatchdog : Statement .resetWatchdog := by intro _; decide
theorem status : Statement .status := by intro _; decide
theorem newFault : Statement .newFault := by intro _; decide
theorem getIchgMa : Statement .getIchgMa := by intro _; decide

theorem setIchgMa (milliamps : Half) : Statement (.setIchgMa milliamps) := by
  intro _
  exact congrArg BitVec.toNat (packWord_setIchgMa milliamps)

theorem decPoc : Statement .decPoc := by intro _; decide
theorem encPoc : Statement .encPoc := by intro _; decide
theorem decCcc : Statement .decCcc := by intro _; decide
theorem encCcc : Statement .encCcc := by intro _; decide
theorem decTtc : Statement .decTtc := by intro _; decide
theorem encTtc : Statement .encTtc := by intro _; decide
theorem decSs : Statement .decSs := by intro _; decide
theorem encSs : Statement .encSs := by intro _; decide
theorem decNf : Statement .decNf := by intro _; decide
theorem encNf : Statement .encNf := by intro _; decide
theorem ichgToMa : Statement .ichgToMa := by intro _; decide
theorem maToIchg : Statement .maToIchg := by intro _; decide

end Sys2Proof.Laws.RowMatch
end

