-- ==== Sys2Proof/Tests/Slice0.lean ====
section
/-! SUPPORT. Tests: which terms are well-formed, words written out from the spec's encodings, one step of each instruction
with the results of spec/95_test_vectors.md, and for every statement with hypotheses a state and operands that meet them. -/

namespace Sys2Proof.Tests

open Sys2Proof.Machine

/-! ## Small states -/

/-- IDLE with `sc` to come. -/
def idle (sc : List Event) : State := { State.reset with script := sc }

/-- RD_WAIT in the command `w`, whose target is `a`. -/
def reading (w : CmdWord) (a : RegAddr) (sc : List Event) : State :=
  { State.reset with phase := .rdWait, cmd := some w, trace := [.rd 0x6B#7 a none], script := sc }

/-- WR_WAIT in the command `w` on `a`, which read `b` and writes `v`. -/
def writing (w : CmdWord) (a : RegAddr) (b v : Byte) (sc : List Event) : State :=
  { State.reset with
    phase := .wrWait, cmd := some w, old := some b, new := some v
    trace := [.rd 0x6B#7 a (some (.ok b)), .wr 0x6B#7 a v none], script := sc }

/-- The host drives `ins`. -/
def driven (ins : CodecIn) : State := { State.reset with codecIn := ins }

/-- The host drives `BIN`. -/
def withBin (b : Byte) : State := driven { CodecIn.undriven with bin := b }

/-- What CODEC presents after `i` ran. -/
def presents (i : Instr) (s : State) : Option (Option CodecOut) := (nextState (exec i s)).map State.codecOut

/-- The response after one step. -/
def respondsWith (s : State) : Option (Option Resp) := (nextState (step s)).map State.resp

/-- The trace after one step. -/
def traceAfter (s : State) : Option (List Entry) := (nextState (step s)).map State.trace

/-! ## Well-formed terms (R82, R89), the ill-formed beside the last well-formed -/

theorem test_wellFormed_read_last : (Instr.read 10#4).wellFormed = true := by decide
theorem test_wellFormed_read_refuses_11 : (Instr.read 11#4).wellFormed = false := by decide
theorem test_wellFormed_update_last : (Instr.update 7#4 0xFF#8 0xFF#8).wellFormed = true := by decide
theorem test_wellFormed_update_refuses_8 : (Instr.update 8#4 0x00#8 0x00#8).wellFormed = false := by decide

/-! ## Words written out bit by bit from R80, R81, R85 (OP, REG, MASK, OPERAND) and selects from R92 -/

theorem test_decode_read_vpr :
    decode (.command 0b0000_1010_00000000_0000000000000000#32) = some (.read 0xA#4) := by decide
theorem test_decode_update_ccc :
    decode (.command 0b0001_0010_01111100_0000000000011000#32) = some (.update 2#4 0x7C#8 0x18#8) := by decide
theorem test_decode_disableWatchdog :
    decode (.command 0b0010_0000_00000000_0000000000000000#32) = some .disableWatchdog := by decide
theorem test_decode_resetWatchdog :
    decode (.command 0b0011_0000_00000000_0000000000000000#32) = some .resetWatchdog := by decide
theorem test_decode_status :
    decode (.command 0b0100_0000_00000000_0000000000000000#32) = some .status := by decide
theorem test_decode_newFault :
    decode (.command 0b0101_0000_00000000_0000000000000000#32) = some .newFault := by decide
theorem test_decode_getIchgMa :
    decode (.command 0b0110_0000_00000000_0000000000000000#32) = some .getIchgMa := by decide
theorem test_decode_setIchgMa :
    decode (.command 0b0111_0000_00000000_0000001111101000#32) = some (.setIchgMa 1000#16) := by decide
theorem test_decode_decPoc : decode (.codec 0b0000#4) = some .decPoc := by decide
theorem test_decode_encPoc : decode (.codec 0b0001#4) = some .encPoc := by decide
theorem test_decode_decCcc : decode (.codec 0b0010#4) = some .decCcc := by decide
theorem test_decode_encCcc : decode (.codec 0b0011#4) = some .encCcc := by decide
theorem test_decode_decTtc : decode (.codec 0b0100#4) = some .decTtc := by decide
theorem test_decode_encTtc : decode (.codec 0b0101#4) = some .encTtc := by decide
theorem test_decode_decSs : decode (.codec 0b0110#4) = some .decSs := by decide
theorem test_decode_encSs : decode (.codec 0b0111#4) = some .encSs := by decide
theorem test_decode_decNf : decode (.codec 0b1000#4) = some .decNf := by decide
theorem test_decode_encNf : decode (.codec 0b1001#4) = some .encNf := by decide
theorem test_decode_ichgToMa : decode (.codec 0b1010#4) = some .ichgToMa := by decide
theorem test_decode_maToIchg : decode (.codec 0b1011#4) = some .maToIchg := by decide

/-- 95_test_vectors.md 2.7: a reserved OP, before any other check. -/
theorem test_refused_opcode :
    decodeCommand 0x80000000#32 = .error .OPCODE ∧ decodeCommand 0x8B000000#32 = .error .OPCODE ∧
    decodeCommand 0xFFFFFFFF#32 = .error .OPCODE := by decide

/-- 95_test_vectors.md 2.7: should-be-zero bits, before REG and RO. -/
theorem test_refused_format :
    decodeCommand 0x00000001#32 = .error .FORMAT ∧ decodeCommand 0x00010000#32 = .error .FORMAT ∧
    decodeCommand 0x10000100#32 = .error .FORMAT ∧ decodeCommand 0x1100FF00#32 = .error .FORMAT ∧
    decodeCommand 0x18000100#32 = .error .FORMAT ∧ decodeCommand 0x21000000#32 = .error .FORMAT ∧
    decodeCommand 0x20000001#32 = .error .FORMAT ∧ decodeCommand 0x3F000000#32 = .error .FORMAT ∧
    decodeCommand 0x40000001#32 = .error .FORMAT ∧ decodeCommand 0x50800000#32 = .error .FORMAT ∧
    decodeCommand 0x70010000#32 = .error .FORMAT ∧ decodeCommand 0x71000000#32 = .error .FORMAT := by decide

/-- 95_test_vectors.md 2.7: REG before RO. -/
theorem test_refused_reg_and_ro :
    decodeCommand 0x0B000000#32 = .error .REG ∧ decodeCommand 0x0F000000#32 = .error .REG ∧
    decodeCommand 0x1B000000#32 = .error .REG ∧ decodeCommand 0x18000000#32 = .error .RO ∧
    decodeCommand 0x1A000000#32 = .error .RO := by decide

/-- 95_test_vectors.md 2.7: the largest legal words. -/
theorem test_accepted_at_the_edge :
    decodeCommand 0x0A000000#32 = .ok (.read 0xA#4) ∧ decodeCommand 0x17FF00FF#32 = .ok (.update 7#4 0xFF#8 0xFF#8) ∧
    decodeCommand 0x7000FFFF#32 = .ok (.setIchgMa 0xFFFF#16) := by decide

/-- R92, R136: the reserved selects. -/
theorem test_reserved_selects :
    decodeFn 0xC#4 = .error .codecFunctionReserved ∧ decodeFn 0xF#4 = .error .codecFunctionReserved := by decide

/-- R98, against the encoder. -/
theorem test_encode_update : encode (.update 5#4 0x08#8 0x00#8) = .command 0x15080000#32 := by decide

/-! ## CODEC, one function each (95_test_vectors.md 2.2, 2.3, 2.5) -/

theorem test_decPoc :
    presents .decPoc (withBin 0x1B#8) = some (some (.poc ⟨.A1_5, 5#3, true, false, false, false⟩)) := by decide
theorem test_encPoc :
    presents .encPoc (driven { CodecIn.undriven with poc := ⟨.A1_5, 3#3, true, false, false, false⟩ }) =
      some (some (.bout 0x17#8)) := by decide
theorem test_decCcc : presents .decCcc (withBin 0x60#8) = some (some (.ccc ⟨false, false, 24#5, 0#1⟩)) := by decide
theorem test_encCcc_keeps_reserved :
    presents .encCcc (driven { CodecIn.undriven with ccc := ⟨false, false, 0#5, 1#1⟩ }) = some (some (.bout 0x80#8)) := by
  decide
theorem test_encCcc :
    presents .encCcc (driven { CodecIn.undriven with ccc := ⟨false, true, 6#5, 0#1⟩ }) = some (some (.bout 0x1A#8)) := by
  decide
theorem test_decTtc :
    presents .decTtc (withBin 0x9A#8) = some (some (.ttc ⟨0#1, .H8, true, .S40, 0#1, true⟩)) := by decide
theorem test_encTtc :
    presents .encTtc (driven { CodecIn.undriven with ttc := ⟨0#1, .H12, true, .S80, 0#1, true⟩ }) =
      some (some (.bout 0xAC#8)) := by decide
theorem test_encTtc_keeps_reserved :
    presents .encTtc (driven { CodecIn.undriven with ttc := ⟨1#1, .H5, false, .Disabled, 1#1, false⟩ }) =
      some (some (.bout 0x41#8)) := by decide
theorem test_decSs :
    presents .decSs (withBin 0x94#8) = some (some (.ss ⟨false, false, true, false, .PreCharge, .AdapterPort⟩)) := by decide
theorem test_encSs :
    presents .encSs (driven { CodecIn.undriven with ss := ⟨false, false, true, false, .PreCharge, .AdapterPort⟩ }) =
      some (some (.bout 0x94#8)) := by decide
theorem test_decNf :
    presents .decNf (withBin 0xA2#8) =
      some (some (.nf ⟨false, true, 0#1, false, .ThermalShutdown, false, true⟩)) := by decide
theorem test_encNf :
    presents .encNf (driven { CodecIn.undriven with nf := ⟨false, true, 0#1, false, .ThermalShutdown, false, true⟩ }) =
      some (some (.bout 0xA2#8)) := by decide
theorem test_ichgToMa :
    presents .ichgToMa (driven { CodecIn.undriven with iin := 12#5 }) = some (some (.mout 1280#16)) := by decide
theorem test_ichgToMa_not_clamped :
    presents .ichgToMa (driven { CodecIn.undriven with iin := 31#5 }) = some (some (.mout 2496#16)) := by decide
theorem test_maToIchg_rounds_down :
    presents .maToIchg (driven { CodecIn.undriven with min := 2047#16 }) = some (some (.iout 23#5)) := by decide
theorem test_maToIchg_clamps :
    presents .maToIchg (driven { CodecIn.undriven with min := 65535#16 }) = some (some (.iout 24#5)) := by decide

/-! ## SEQ, one event each (95_test_vectors.md 2.8 to 2.11) -/

theorem test_read_raw_byte :
    respondsWith (reading 0x0A000000#32 0x0A#8 [.readAnswer (.ok 0x20#8)]) = some (some ⟨0#2, 0x0020#16, none, none⟩) := by
  decide
theorem test_read_bus_error (e : BusError) :
    respondsWith (reading 0x0A000000#32 0x0A#8 [.readAnswer (.err e)]) =
      some (some ⟨1#2, 0x0000#16, some e, none⟩) := rfl
theorem test_update_written_byte :
    traceAfter (reading 0x127C0018#32 0x02#8 [.readAnswer (.ok 0xE3#8)]) =
      some [.rd 0x6B#7 0x02#8 (some (.ok 0xE3#8)), .wr 0x6B#7 0x02#8 0x9B#8 none] := by decide
theorem test_update_write_error (e : BusError) :
    respondsWith (writing 0x127C0018#32 0x02#8 0xE3#8 0x9B#8 [.writeAnswer (.err e)]) =
      some (some ⟨1#2, 0x0000#16, some e, none⟩) := rfl
theorem test_disableWatchdog_written_byte :
    traceAfter (reading 0x20000000#32 0x05#8 [.readAnswer (.ok 0x9A#8)]) =
      some [.rd 0x6B#7 0x05#8 (some (.ok 0x9A#8)), .wr 0x6B#7 0x05#8 0x92#8 none] := by decide
theorem test_resetWatchdog_already_set_still_written :
    traceAfter (reading 0x30000000#32 0x01#8 [.readAnswer (.ok 0x40#8)]) =
      some [.rd 0x6B#7 0x01#8 (some (.ok 0x40#8)), .wr 0x6B#7 0x01#8 0x40#8 none] := by decide
theorem test_resetWatchdog_write_ends :
    respondsWith (writing 0x30000000#32 0x01#8 0x1B#8 0x5B#8 [.writeAnswer .ok]) =
      some (some ⟨0#2, 0x0000#16, none, none⟩) := by decide
theorem test_status_view :
    respondsWith (reading 0x40000000#32 0x08#8 [.readAnswer (.ok 0x94#8)]) =
      some (some ⟨0#2, 0x0094#16, none, some (.ss ⟨false, false, true, false, .PreCharge, .AdapterPort⟩)⟩) := by decide
theorem test_newFault_view :
    respondsWith (reading 0x50000000#32 0x09#8 [.readAnswer (.ok 0xA2#8)]) =
      some (some ⟨0#2, 0x00A2#16, none, some (.nf ⟨false, true, 0#1, false, .ThermalShutdown, false, true⟩)⟩) := by decide
theorem test_getIchgMa_ignores_other_bits :
    respondsWith (reading 0x60000000#32 0x02#8 [.readAnswer (.ok 0xFF#8)]) = some (some ⟨0#2, 0x09C0#16, none, none⟩) := by
  decide
theorem test_setIchgMa_written_byte :
    traceAfter (reading 0x700003E8#32 0x02#8 [.readAnswer (.ok 0xE3#8)]) =
      some [.rd 0x6B#7 0x02#8 (some (.ok 0xE3#8)), .wr 0x6B#7 0x02#8 0x9F#8 none] := by decide
theorem test_setIchgMa_clamps_high :
    traceAfter (reading 0x7000FFFF#32 0x02#8 [.readAnswer (.ok 0x00#8)]) =
      some [.rd 0x6B#7 0x02#8 (some (.ok 0x00#8)), .wr 0x6B#7 0x02#8 0x60#8 none] := by decide
theorem test_refused_word_responds :
    respondsWith (idle [.accept 0x18FF0000#32]) = some (some ⟨2#2, 0x0004#16, none, none⟩) ∧
    traceAfter (idle [.accept 0x18FF0000#32]) = some [] := by decide
theorem test_reset_leaves_write_pending :
    traceAfter (writing 0x30000000#32 0x01#8 0x1B#8 0x5B#8 [.reset]) =
      some [.rd 0x6B#7 0x01#8 (some (.ok 0x1B#8)), .wr 0x6B#7 0x01#8 0x5B#8 none] ∧
    respondsWith (writing 0x30000000#32 0x01#8 0x1B#8 0x5B#8 [.reset]) = some none := by decide
theorem test_withFetchWord_runs_status :
    traceAfter (State.reset.withFetchWord 32 0x40000000) = some [.rd 0x6B#7 0x08#8 none] := by decide

/-- R225: a host that reads 0x20 from VPR confirms the part, one that reads another byte does not. -/
theorem test_identity_check :
    hostConfirmsIdentity ⟨0#2, 0x0020#16, none, none⟩ = true ∧
    hostConfirmsIdentity ⟨0#2, 0x0047#16, none, none⟩ = false := by decide

/-! ## Assembly errors (R94, R96) -/

theorem test_assembly_errors :
    assemble "SETF SS.vsys, true" = none ∧ assemble "SETF POC.sys_min, 8" = none ∧ assemble "UPDATE POC, 0x100, 0" = none ∧
    assemble "SETF POC.sys_min, 0b111" = some 0x110E000E#32 := by decide

/-! ## The hypotheses of the statements can be met -/

theorem witness_DecodeEncodeAgree :
    (Instr.read 10#4).wellFormed = true ∧ (Instr.update 7#4 0xFF#8 0xFF#8).wellFormed = true ∧
    Instr.maToIchg.wellFormed = true := by decide

theorem witness_AcceptedWordNamesOneCommand : decodeCommand 0x17FF00FF#32 = .ok (.update 7#4 0xFF#8 0xFF#8) := by decide

/-- Each row's match, at the largest operands its value check lets through. -/
theorem witness_MatchAndMaskSpellCommands :
    (0x0A000000#32 &&& 0xF0FFFFFF#32 = 0x00000000#32 ∧ (0x0A000000#32).toNat / 2 ^ 24 % 16 ≤ 10) ∧
    (0x17FF00FF#32 &&& 0xF000FF00#32 = 0x10000000#32 ∧ (0x17FF00FF#32).toNat / 2 ^ 24 % 16 ≤ 7) ∧
    0x7000FFFF#32 &&& 0xFFFF0000#32 = 0x70000000#32 := by decide

theorem witness_FunctionSelectTable : 0xC ≤ (0xC#4 : FnSel).toNat ∧ 0xC ≤ (0xF#4 : FnSel).toNat := by decide

theorem witness_ReservedSelectIsRefused :
    0xC ≤ (0xC#4 : FnSel).toNat ∧
    (idle [.codec 0xC#4 CodecIn.undriven]).script = .codec 0xC#4 CodecIn.undriven :: [] := by decide

theorem witness_StepRunsDecodedInstruction :
    ((idle [.accept 0x40000000#32]).phase = .idle ∧
      (idle [.accept 0x40000000#32]).script = .accept 0x40000000#32 :: [] ∧
      decodeCommand 0x40000000#32 = .ok .status) ∧
    ((reading 0x40000000#32 0x08#8 [.readAnswer (.ok 0x94#8)]).phase = .rdWait ∧
      (reading 0x40000000#32 0x08#8 [.readAnswer (.ok 0x94#8)]).script = .readAnswer (.ok 0x94#8) :: [] ∧
      (reading 0x40000000#32 0x08#8 [.readAnswer (.ok 0x94#8)]).cmd = some 0x40000000#32) ∧
    ((writing 0x30000000#32 0x01#8 0x1B#8 0x5B#8 [.writeAnswer .ok]).phase = .wrWait ∧
      (writing 0x30000000#32 0x01#8 0x1B#8 0x5B#8 [.writeAnswer .ok]).script = .writeAnswer .ok :: [] ∧
      (writing 0x30000000#32 0x01#8 0x1B#8 0x5B#8 [.writeAnswer .ok]).cmd = some 0x30000000#32 ∧
      decodeCommand 0x30000000#32 = .ok .resetWatchdog) ∧
    ((idle [.codec 0xB#4 CodecIn.undriven]).script = .codec 0xB#4 CodecIn.undriven :: [] ∧
      decodeFn 0xB#4 = .ok .maToIchg) := by decide

theorem witness_PresentedInstructionRunsNext :
    (Instr.status.wellFormed = true ∧ encode .status = .command 0x40000000#32 ∧ State.reset.phase = .idle) ∧
    (reading 0x40000000#32 0x08#8 []).phase ≠ .idle ∧ encode .maToIchg = .codec 0xB#4 := by decide

/-- Distinct codes, at the two ends of each width. -/
theorem witness_EnumerationsAreBijections : (0#1 : BitVec 1) ≠ 1#1 ∧ (0#2 : BitVec 2) ≠ 3#2 := by decide

theorem witness_SetfAssemblesFieldSet :
    (FieldSet.ttc (.watchdog .S160)).reg = .TTC ∧ (FieldSet.ss (.vbus .Otg)).reg = .SS := by decide

theorem witness_AssembledWordsAreWellFormatted : emitLine (.update 15 0xFF 0xFF) = some 0x1FFF00FF#32 := by decide

theorem witness_CodecDecodesFields : 0x9A = (withBin 0x9A#8).codecIn.bin.toNat := by decide

theorem witness_CodecEncodesFields :
    CodecIn.undriven.poc = State.reset.codecIn.poc ∧ CodecIn.undriven.ccc = State.reset.codecIn.ccc ∧
    CodecIn.undriven.ttc = State.reset.codecIn.ttc ∧ CodecIn.undriven.ss = State.reset.codecIn.ss ∧
    CodecIn.undriven.nf = State.reset.codecIn.nf := by decide

theorem witness_ConversionLaws : 24 ≤ 24 ∧ (2047#16 : Half).toNat ≤ (2048#16 : Half).toNat := by decide

/-- The hypotheses of a read command's clauses, at each of its events, on the states of `w` on `a`. -/
abbrev ReadClausesMet (w : CmdWord) (a : RegAddr) (b : Byte) (e : BusError) : Prop :=
  (idle []).phase = .idle ∧
  ((reading w a [.readAnswer (.ok b)]).phase = .rdWait ∧
    (reading w a [.readAnswer (.ok b)]).script = .readAnswer (.ok b) :: []) ∧
  ((reading w a [.readAnswer (.err e)]).phase = .rdWait ∧
    (reading w a [.readAnswer (.err e)]).script = .readAnswer (.err e) :: [])

/-- The hypotheses of an RMW command's clauses, at each of its events, on the states of `w` on `a` that writes `v`. -/
abbrev RmwClausesMet (w : CmdWord) (a : RegAddr) (b v : Byte) (e : BusError) : Prop :=
  ReadClausesMet w a b e ∧
  ((writing w a b v [.writeAnswer .ok]).phase = .wrWait ∧ (writing w a b v [.writeAnswer .ok]).new = some v ∧
    (writing w a b v [.writeAnswer .ok]).script = .writeAnswer .ok :: []) ∧
  ((writing w a b v [.writeAnswer (.err e)]).phase = .wrWait ∧ (writing w a b v [.writeAnswer (.err e)]).new = some v ∧
    (writing w a b v [.writeAnswer (.err e)]).script = .writeAnswer (.err e) :: [])

/-- The hypotheses of a refusal on the state: IDLE, with the word next. -/
abbrev RefusalClauseMet (w : CmdWord) : Prop :=
  (idle [.accept w]).phase = .idle ∧ (idle [.accept w]).script = .accept w :: []

/-- READ of its last register at each of its events; a should-be-zero bit; the first index that names no register. -/
theorem witness_ReadCommand :
    (0xA#4 : RegIndex).toNat ≤ 10 ∧ ReadClausesMet 0x0A000000#32 0x0A#8 0xFF#8 .first ∧
    ((0x00000001#32).toNat / 2 ^ 28 = 0x0 ∧ 0x00000001#32 &&& 0x00FFFFFF#32 ≠ 0#32 ∧ RefusalClauseMet 0x00000001#32) ∧
    ((0x0B000000#32).toNat / 2 ^ 28 = 0x0 ∧ 0x0B000000#32 &&& 0x00FFFFFF#32 = 0#32 ∧
      10 < (0x0B000000#32).toNat / 2 ^ 24 ∧ RefusalClauseMet 0x0B000000#32) := by decide

/-- UPDATE of its last register at each of its events; each refusal at the edges of its range. -/
theorem witness_UpdateCommand :
    (7#4 : RegIndex).toNat ≤ 7 ∧ RmwClausesMet 0x17FF00A5#32 0x07#8 0x3C#8 0xA5#8 .first ∧
    ((0x10000100#32).toNat / 2 ^ 28 = 0x1 ∧ 0x10000100#32 &&& 0x0000FF00#32 ≠ 0#32 ∧ RefusalClauseMet 0x10000100#32) ∧
    ((0x1B000000#32).toNat / 2 ^ 28 = 0x1 ∧ 0x1B000000#32 &&& 0x0000FF00#32 = 0#32 ∧
      10 < (0x1B000000#32).toNat / 2 ^ 24 % 16 ∧ RefusalClauseMet 0x1B000000#32) ∧
    ((0x18000000#32).toNat / 2 ^ 28 = 0x1 ∧ 0x18000000#32 &&& 0x0000FF00#32 = 0#32 ∧
      8 ≤ (0x18000000#32).toNat / 2 ^ 24 % 16 ∧ (0x18000000#32).toNat / 2 ^ 24 % 16 ≤ 10 ∧
      RefusalClauseMet 0x18000000#32) ∧
    ((0x1A000000#32).toNat / 2 ^ 28 = 0x1 ∧ 0x1A000000#32 &&& 0x0000FF00#32 = 0#32 ∧
      8 ≤ (0x1A000000#32).toNat / 2 ^ 24 % 16 ∧ (0x1A000000#32).toNat / 2 ^ 24 % 16 ≤ 10) := by decide

theorem witness_DisableWatchdogCommand :
    RmwClausesMet 0x20000000#32 0x05#8 0xFF#8 0xF7#8 .first ∧
    (0x20000001#32).toNat / 2 ^ 28 = 0x2 ∧ 0x20000001#32 ≠ 0x20000000#32 ∧ RefusalClauseMet 0x20000001#32 := by decide

theorem witness_ResetWatchdogCommand :
    RmwClausesMet 0x30000000#32 0x01#8 0x80#8 0xC0#8 .first ∧
    (0x3F000000#32).toNat / 2 ^ 28 = 0x3 ∧ 0x3F000000#32 ≠ 0x30000000#32 ∧ RefusalClauseMet 0x3F000000#32 := by decide

theorem witness_StatusCommand :
    ReadClausesMet 0x40000000#32 0x08#8 0xFF#8 .first ∧
    (0x40000001#32).toNat / 2 ^ 28 = 0x4 ∧ 0x40000001#32 ≠ 0x40000000#32 ∧ RefusalClauseMet 0x40000001#32 := by decide

theorem witness_NewFaultCommand :
    ReadClausesMet 0x50000000#32 0x09#8 0x30#8 .first ∧
    (0x50800000#32).toNat / 2 ^ 28 = 0x5 ∧ 0x50800000#32 ≠ 0x50000000#32 ∧ RefusalClauseMet 0x50800000#32 := by decide

theorem witness_GetIchgMaCommand :
    ReadClausesMet 0x60000000#32 0x02#8 0x7C#8 .first ∧
    (0x6FFFFFFF#32).toNat / 2 ^ 28 = 0x6 ∧ 0x6FFFFFFF#32 ≠ 0x60000000#32 ∧ RefusalClauseMet 0x6FFFFFFF#32 := by decide

theorem witness_SetIchgMaCommand :
    RmwClausesMet 0x7000FFFF#32 0x02#8 0x00#8 0x60#8 .first ∧
    (0x70010000#32).toNat / 2 ^ 28 = 0x7 ∧ 0x70010000#32 &&& 0x0FFF0000#32 ≠ 0#32 ∧ RefusalClauseMet 0x70010000#32 := by
  decide

theorem witness_CommandsOutsideTheirEvents :
    (isCommand .status = true ∧ isRmw .status = false ∧ isRmw .resetWatchdog = true) ∧
    ((reading 0x40000000#32 0x08#8 []).phase = .rdWait ∧
      ∀ r rest, (reading 0x40000000#32 0x08#8 []).script ≠ .readAnswer r :: rest) ∧
    ((writing 0x30000000#32 0x01#8 0x1B#8 0x5B#8 []).phase = .wrWait ∧
      ∀ r rest, (writing 0x30000000#32 0x01#8 0x1B#8 0x5B#8 []).script ≠ .writeAnswer r :: rest) ∧
    ({ writing 0x30000000#32 0x01#8 0x1B#8 0x5B#8 [.writeAnswer .ok] with new := none }.new = none ∧
      { writing 0x30000000#32 0x01#8 0x1B#8 0x5B#8 [.writeAnswer .ok] with new := none }.script = .writeAnswer .ok :: []) ∧
    (writing 0x40000000#32 0x08#8 0x94#8 0x94#8 []).phase = .wrWait ∧
    10 < (11#4 : RegIndex).toNat ∧
    (7 < (8#4 : RegIndex).toNat ∧ (8#4 : RegIndex).toNat ≤ 10) ∧
    (7 < (10#4 : RegIndex).toNat ∧ (10#4 : RegIndex).toNat ≤ 10) ∧
    (7 < (11#4 : RegIndex).toNat ∧ ¬ (11#4 : RegIndex).toNat ≤ 10) :=
  ⟨by decide, ⟨rfl, nofun⟩, ⟨rfl, nofun⟩, ⟨rfl, rfl⟩, rfl, by decide, by decide, by decide, by decide⟩

theorem witness_RmwRunReadsThenWrites :
    (idle []).phase = .idle ∧ LatchesEmpty (idle []) ∧ decodeCommand 0x700003E8#32 = .ok (.setIchgMa 1000#16) ∧
    isRmw (.setIchgMa 1000#16) = true ∧
    (idle [.accept 0x700003E8#32, .readAnswer (.ok 0xE3#8), .writeAnswer .ok]).script =
      .accept 0x700003E8#32 :: .readAnswer (.ok 0xE3#8) :: .writeAnswer .ok :: [] ∧
    (idle [.accept 0x700003E8#32, .readAnswer (.ok 0xE3#8), .writeAnswer (.err .first)]).script =
      .accept 0x700003E8#32 :: .readAnswer (.ok 0xE3#8) :: .writeAnswer (.err .first) :: [] ∧
    (idle [.accept 0x700003E8#32, .readAnswer (.err .first)]).script =
      .accept 0x700003E8#32 :: .readAnswer (.err .first) :: [] :=
  ⟨rfl, ⟨rfl, rfl, rfl⟩, by decide, rfl, rfl, rfl, rfl⟩

theorem witness_ReadRunIssuesOneTransaction :
    (idle []).phase = .idle ∧ LatchesEmpty (idle []) ∧ decodeCommand 0x50000000#32 = .ok .newFault ∧
    isRmw .newFault = false ∧
    (idle [.accept 0x50000000#32, .readAnswer (.ok 0x04#8)]).script =
      .accept 0x50000000#32 :: .readAnswer (.ok 0x04#8) :: [] ∧
    (idle [.accept 0x50000000#32, .readAnswer (.err .first)]).script =
      .accept 0x50000000#32 :: .readAnswer (.err .first) :: [] :=
  ⟨rfl, ⟨rfl, rfl, rfl⟩, by decide, rfl, rfl, rfl⟩

theorem witness_WriteChangesOnlyTheMask :
    (Instr.update 7#4 0x00#8 0xFF#8).wellFormed = true ∧ isRmw (.update 7#4 0x00#8 0xFF#8) = true ∧
    (reading 0x170000FF#32 0x07#8 [.readAnswer (.ok 0x5A#8)]).phase = .rdWait ∧
    (reading 0x170000FF#32 0x07#8 [.readAnswer (.ok 0x5A#8)]).script = .readAnswer (.ok 0x5A#8) :: [] := by decide

theorem witness_PayloadsAreAddressThenValue :
    Instr.resetWatchdog.wellFormed = true ∧ isCommand .resetWatchdog = true ∧ (idle []).phase = .idle ∧
    isRmw .resetWatchdog = true ∧
    (reading 0x30000000#32 0x01#8 [.readAnswer (.ok 0x1B#8)]).script = .readAnswer (.ok 0x1B#8) :: [] := by decide

theorem witness_SetThenGetRoundsDown :
    (reading 0x700003E8#32 0x02#8 [.readAnswer (.ok 0xE3#8)]).phase = .rdWait ∧
    (reading 0x60000000#32 0x02#8 [.readAnswer (.ok 0x9F#8)]).phase = .rdWait ∧
    (reading 0x60000000#32 0x02#8 [.readAnswer (.ok 0x9F#8)]).script = .readAnswer (.ok 0x9F#8) :: [] ∧
    writtenByte (.setIchgMa 1000#16) 0xE3#8 = 0x9F#8 := by decide

theorem witness_AcceptanceStartsOrRefuses :
    (idle [.accept 0x0A000000#32]).phase = .idle ∧
    (idle [.accept 0x0A000000#32]).script = .accept 0x0A000000#32 :: [] ∧
    decodeCommand 0x0A000000#32 = .ok (.read 0xA#4) ∧ decodeCommand 0x0B000000#32 = .error .REG := by decide

theorem witness_BusyCommandFaults :
    (reading 0x40000000#32 0x08#8 [.accept 0x40000000#32]).phase ≠ .idle ∧
    (reading 0x40000000#32 0x08#8 [.accept 0x40000000#32]).script = .accept 0x40000000#32 :: [] := by decide

theorem witness_RefusedWordGetsItsCode :
    decodeCommand 0x80000000#32 = .error .OPCODE ∧ decodeCommand 0x40000001#32 = .error .FORMAT ∧
    decodeCommand 0x0B000000#32 = .error .REG ∧ decodeCommand 0x18000000#32 = .error .RO ∧
    (idle [.accept 0x80000000#32]).phase = .idle := by decide

/-- A state in RD_WAIT that SEQ can be in. -/
theorem reading_seqInv (sc : List Event) : SeqInv (reading 0x40000000#32 0x08#8 sc) :=
  ⟨_, .status, rfl, by decide, rfl, rfl, [], rfl⟩

/-- A state in WR_WAIT that SEQ can be in. -/
theorem writing_seqInv (sc : List Event) : SeqInv (writing 0x30000000#32 0x01#8 0x1B#8 0x5B#8 sc) :=
  ⟨_, .resetWatchdog, 0x1B#8, rfl, by decide, rfl, rfl, rfl, [], rfl⟩

theorem witness_BusErrorEndsCommand :
    (SeqInv (reading 0x40000000#32 0x08#8 [.readAnswer (.err .first)]) ∧
      (reading 0x40000000#32 0x08#8 [.readAnswer (.err .first)]).phase = .rdWait ∧
      (reading 0x40000000#32 0x08#8 [.readAnswer (.err .first)]).script = .readAnswer (.err .first) :: []) ∧
    (SeqInv (writing 0x30000000#32 0x01#8 0x1B#8 0x5B#8 [.writeAnswer (.err .first)]) ∧
      (writing 0x30000000#32 0x01#8 0x1B#8 0x5B#8 [.writeAnswer (.err .first)]).phase = .wrWait ∧
      (writing 0x30000000#32 0x01#8 0x1B#8 0x5B#8 [.writeAnswer (.err .first)]).script = .writeAnswer (.err .first) :: []) :=
  ⟨⟨reading_seqInv _, rfl, rfl⟩, ⟨writing_seqInv _, rfl, rfl⟩⟩

/-- A step that writes no response, one that clears it, and one that ends a command. -/
theorem witness_ResponseOnlyAtCommandEnd :
    (∃ t, step (idle [.accept 0x40000000#32]) = .next t) ∧ (∃ t, step (idle [.reset]) = .next t) ∧
    (∃ t, step (writing 0x30000000#32 0x01#8 0x1B#8 0x5B#8 [.writeAnswer .ok]) = .next t) :=
  ⟨⟨_, rfl⟩, ⟨_, rfl⟩, ⟨_, rfl⟩⟩

theorem witness_ResetEvent : (writing 0x30000000#32 0x01#8 0x1B#8 0x5B#8 [.reset]).script = .reset :: [] := rfl

theorem witness_ResetValues : (reading 0x40000000#32 0x08#8 [.reset]).script = .reset :: [] := rfl

theorem witness_LateAnswersChangeNothing :
    ((idle [.readAnswer (.ok 0#8)]).phase ≠ .rdWait ∧
      (idle [.readAnswer (.ok 0#8)]).script = .readAnswer (.ok 0#8) :: []) ∧
    ((reading 0x40000000#32 0x08#8 [.writeAnswer .ok]).phase ≠ .wrWait ∧
      (reading 0x40000000#32 0x08#8 [.writeAnswer .ok]).script = .writeAnswer .ok :: []) := by decide

theorem witness_UnansweredStaysForever : (reading 0x40000000#32 0x08#8 []).script = [] := rfl

theorem witness_AnsweredCommandEnds :
    (idle [.accept 0x30000000#32, .readAnswer (.ok 0x1B#8), .writeAnswer .ok]).phase = .idle ∧
    (idle [.accept 0x30000000#32, .readAnswer (.ok 0x1B#8), .writeAnswer .ok]).script =
      .accept 0x30000000#32 :: .readAnswer (.ok 0x1B#8) :: .writeAnswer .ok :: [] := by decide

/-- SeqInv in each phase, with a step from it. -/
theorem witness_StepKeepsSeqInv :
    (SeqInv (idle [.accept 0x40000000#32]) ∧ ∃ t, step (idle [.accept 0x40000000#32]) = .next t) ∧
    (SeqInv (reading 0x40000000#32 0x08#8 [.readAnswer (.ok 0x94#8)]) ∧
      ∃ t, step (reading 0x40000000#32 0x08#8 [.readAnswer (.ok 0x94#8)]) = .next t) ∧
    (SeqInv (writing 0x30000000#32 0x01#8 0x1B#8 0x5B#8 [.writeAnswer .ok]) ∧
      ∃ t, step (writing 0x30000000#32 0x01#8 0x1B#8 0x5B#8 [.writeAnswer .ok]) = .next t) :=
  ⟨⟨⟨rfl, rfl, rfl⟩, ⟨_, rfl⟩⟩, ⟨reading_seqInv _, ⟨_, rfl⟩⟩, ⟨writing_seqInv _, ⟨_, rfl⟩⟩⟩

theorem witness_StepKeepsRespInv :
    RespInv { idle [.accept 0x80000000#32] with resp := some ⟨2#2, 0x0004#16, none, none⟩ } ∧
    ∃ t, step { idle [.accept 0x80000000#32] with resp := some ⟨2#2, 0x0004#16, none, none⟩ } = .next t :=
  ⟨fun r h => by cases h; exact .inr (.inr (by decide)), _, rfl⟩

theorem witness_StepKeepsTraceInv :
    TraceInv { idle [.accept 0x0A000000#32] with trace := [.wr 0x6B#7 0x07#8 0xFF#8 (some .ok)] } ∧
    ∃ t, step { idle [.accept 0x0A000000#32] with trace := [.wr 0x6B#7 0x07#8 0xFF#8 (some .ok)] } = .next t :=
  ⟨fun e h => (by
    cases h with
    | head => exact ⟨rfl, by decide⟩
    | tail _ h => cases h), _, rfl⟩

theorem witness_StepKeepsOneOutstanding :
    SeqInv (reading 0x40000000#32 0x08#8 [.readAnswer (.ok 0x94#8)]) ∧
    OneOutstanding (reading 0x40000000#32 0x08#8 [.readAnswer (.ok 0x94#8)]) ∧
    ∃ t, step (reading 0x40000000#32 0x08#8 [.readAnswer (.ok 0x94#8)]) = .next t :=
  ⟨reading_seqInv _,
    ⟨fun e h => (by
      cases h with
      | head => nofun
      | tail _ h => cases h), [], _, rfl, rfl, nofun⟩, _, rfl⟩

/-- A fault, a refusal and a next state, each with what the statement says of it. -/
theorem witness_OnlyTheHostStopsTheMachine :
    (SeqInv (reading 0x40000000#32 0x08#8 [.accept 0x40000000#32]) ∧
      step (reading 0x40000000#32 0x08#8 [.accept 0x40000000#32]) = .fault .commandWhileBusy) ∧
    (SeqInv (idle [.codec 0xC#4 CodecIn.undriven]) ∧
      step (idle [.codec 0xC#4 CodecIn.undriven]) = .refused (.codecFunctionReserved 0xC#4)) ∧
    (SeqInv (idle []) ∧ ¬ HostBreaksDuty (idle []) ∧ ¬ HostSelectsReserved (idle [])) :=
  ⟨⟨reading_seqInv _, rfl⟩, ⟨⟨rfl, rfl, rfl⟩, rfl⟩, ⟨rfl, rfl, rfl⟩, fun h => h.1 rfl, fun ⟨_, _, _, h, _⟩ => nomatch h⟩

theorem witness_TraceOnlyGrows :
    SeqInv (writing 0x30000000#32 0x01#8 0x1B#8 0x5B#8 [.writeAnswer .ok]) ∧
    ∃ t, step (writing 0x30000000#32 0x01#8 0x1B#8 0x5B#8 [.writeAnswer .ok]) = .next t :=
  ⟨writing_seqInv _, _, rfl⟩

/-- Two states that agree on what SEQ holds and differ in what earlier commands left, a command that ends in one step, and
the invariant in both where the transactions are compared. -/
theorem witness_NothingCarriesOver :
    SameSeq (idle [.accept 0x80000000#32])
      { idle [.accept 0x80000000#32] with hostIndex := 5, resp := some ⟨0#2, 0x0020#16, none, none⟩ } ∧
    (∃ t, step (idle [.accept 0x80000000#32]) = .next t ∧ t.hostIndex ≠ (idle [.accept 0x80000000#32]).hostIndex) ∧
    SeqInv (idle [.accept 0x80000000#32]) ∧
    SeqInv { idle [.accept 0x80000000#32] with hostIndex := 5, resp := some ⟨0#2, 0x0020#16, none, none⟩ } :=
  ⟨⟨rfl, rfl, rfl, rfl, rfl⟩, ⟨_, rfl, by decide⟩, ⟨rfl, rfl, rfl⟩, ⟨rfl, rfl, rfl⟩⟩

end Sys2Proof.Tests
end

section
/-! PROOFS. A step as a move, and what SEQ keeps from step to step (10_state.md Part A). `Move` names the ten things that
can happen at an event and `step_eq_next_iff` ties them to `step`; each property of a step is then one case analysis over
the moves. -/

namespace Sys2Proof.Machine

/-! ## Moves -/

/-- What can happen at a step that answers a next state, with the data the event brings (R155). -/
inductive Move where
  /-- No event is left. -/
  | stay
  /-- A presented word is refused. -/
  | refuse (w : CmdWord) (c : RefusalCode) (rest : List Event)
  /-- A presented word is accepted and its read issued. -/
  | start (w : CmdWord) (i : Instr) (rest : List Event)
  /-- The read fails, which ends the command. -/
  | failRead (i : Instr) (e : BusError) (rest : List Event)
  /-- The read of a read command is answered, which ends it. -/
  | finishRead (i : Instr) (b : Byte) (rest : List Event)
  /-- The read of an RMW command is answered, and its write issued. -/
  | writeBack (i : Instr) (b : Byte) (rest : List Event)
  /-- The write is answered, which ends the command. -/
  | finishWrite (i : Instr) (v : Byte) (r : WriteResult) (rest : List Event)
  /-- An answer outside its wait phase is dropped. -/
  | dropAnswer (e : Event) (rest : List Event)
  /-- SEQ is reset. -/
  | reset (rest : List Event)
  /-- CODEC presents a result. -/
  | codec (fn : FnSel) (ins : CodecIn) (o : CodecOut) (rest : List Event)

/-- `S.CMD` holds a word that names `i` (R154). -/
def Latched (i : Instr) (s : State) : Prop := ∃ w, s.cmd = some w ∧ decodeCommand w = .ok i

/-- The state in which a CODEC function runs: its event taken and the ports driven (R92). -/
def driveCodec (ins : CodecIn) (rest : List Event) (s : State) : State := { takeEvent rest s with codecIn := ins }

namespace Move

/-- When a move is the one that happens. -/
def Enabled : Move → State → Prop
  | stay, s => s.script = []
  | refuse w c rest, s => s.script = .accept w :: rest ∧ s.phase = .idle ∧ decodeCommand w = .error c
  | start w i rest, s => s.script = .accept w :: rest ∧ s.phase = .idle ∧ decodeCommand w = .ok i
  | failRead i e rest, s => s.script = .readAnswer (.err e) :: rest ∧ s.phase = .rdWait ∧ Latched i s
  | finishRead i b rest, s =>
    s.script = .readAnswer (.ok b) :: rest ∧ s.phase = .rdWait ∧ Latched i s ∧ isRmw i = false
  | writeBack i b rest, s =>
    s.script = .readAnswer (.ok b) :: rest ∧ s.phase = .rdWait ∧ Latched i s ∧ isRmw i = true
  | finishWrite i v r rest, s =>
    s.script = .writeAnswer r :: rest ∧ s.phase = .wrWait ∧ Latched i s ∧ isRmw i = true ∧ s.new = some v
  | dropAnswer e rest, s => s.script = e :: rest ∧ LateAnswer s e
  | reset rest, s => s.script = .reset :: rest
  | codec fn ins o rest, s =>
    s.script = .codec fn ins :: rest ∧ ∃ i, decodeFn fn = .ok i ∧
      exec i (driveCodec ins rest s) = .next (presentCodec o (driveCodec ins rest s))

/-- The state a move leads to. -/
def apply : Move → State → State
  | stay, s => s
  | refuse w c rest, s => raiseRefused c (latchCommand w (takeEvent rest s))
  | start w i rest, s => issueRead (target i) (latchCommand w (takeEvent rest s))
  | failRead i e rest, s => raiseBusError e (settleRead (target i) (.err e) (takeEvent rest s))
  | finishRead i b rest, s =>
    respondOk (resultData i b) (resultView i b) (setOld b (settleRead (target i) (.ok b) (takeEvent rest s)))
  | writeBack i b rest, s =>
    issueWrite (target i) (writtenByte i b)
      (setNew (writtenByte i b) (setOld b (settleRead (target i) (.ok b) (takeEvent rest s))))
  | finishWrite i v r rest, s => endCommand (writeEnding r) (settleWrite (target i) v r (takeEvent rest s))
  | dropAnswer _ rest, s => takeEvent rest s
  | reset rest, s => resetSeq (takeEvent rest s)
  | codec _ ins o rest, s => presentCodec o (driveCodec ins rest s)

/-- An enabled move is what the step does. -/
theorem step_eq {m : Move} {s : State} (h : m.Enabled s) : step s = .next (m.apply s) := by
  cases m with
  | stay => exact step_nil h
  | refuse w c rest =>
    obtain ⟨hs, hp, hd⟩ := h
    exact step_accept_refused hs hp hd
  | start w i rest =>
    obtain ⟨hs, hp, hd⟩ := h
    obtain ⟨hw, hc⟩ := decodeCommand_ok_command hd
    exact (step_accept hs hp hd).trans (exec_idle hw hc hp)
  | failRead i e rest =>
    obtain ⟨hs, hp, w, hcmd, hd⟩ := h
    obtain ⟨hw, hc⟩ := decodeCommand_ok_command hd
    rw [step_readAnswer hs hp, resume_ok hcmd hd]
    cases hr : isRmw i with
    | true => rw [exec_rmw hw hr, rmwSeq_read_err _ _ hp hs]; rfl
    | false => rw [exec_read hw hc hr, readSeq_err _ _ _ hp hs]; rfl
  | finishRead i b rest =>
    obtain ⟨hs, hp, ⟨w, hcmd, hd⟩, hr⟩ := h
    obtain ⟨hw, hc⟩ := decodeCommand_ok_command hd
    rw [step_readAnswer hs hp, resume_ok hcmd hd, exec_read hw hc hr, readSeq_ok _ _ _ hp hs]; rfl
  | writeBack i b rest =>
    obtain ⟨hs, hp, ⟨w, hcmd, hd⟩, hr⟩ := h
    rw [step_readAnswer hs hp, resume_ok hcmd hd, exec_rmw (decodeCommand_ok_command hd).1 hr,
      rmwSeq_read_ok _ _ hp hs]; rfl
  | finishWrite i v r rest =>
    obtain ⟨hs, hp, ⟨w, hcmd, hd⟩, hr, hn⟩ := h
    rw [step_writeAnswer hs hp, resume_ok hcmd hd, exec_rmw (decodeCommand_ok_command hd).1 hr]
    cases r with
    | ok => rw [rmwSeq_write_ok _ _ hp hn hs]; rfl
    | err e => rw [rmwSeq_write_err _ _ hp hn hs]; rfl
  | dropAnswer e rest =>
    obtain ⟨hs, hl⟩ := h
    cases e with
    | readAnswer r => exact step_readAnswer_late hs hl
    | writeAnswer r => exact step_writeAnswer_late hs hl
    | accept w => exact hl.elim
    | reset => exact hl.elim
    | codec fn ins => exact hl.elim
  | reset rest => exact step_reset h
  | codec fn ins o rest =>
    obtain ⟨hs, i, hd, he⟩ := h
    exact (step_codec hs hd).trans he

end Move

/-- A step answers a next state exactly by an enabled move. -/
theorem step_eq_next_iff {s t : State} : step s = .next t ↔ ∃ m : Move, m.Enabled s ∧ t = m.apply s := by
  refine ⟨fun h => ?_, fun ⟨m, hm, ht⟩ => ht ▸ m.step_eq hm⟩
  rcases step_effects h with ⟨hs, ht⟩ | ⟨w, c, rest, hs, hp, hd, ht⟩ | ⟨w, i, rest, hs, hp, hd, ht⟩ |
    ⟨w, i, e, rest, hp, hs, hc, hd, ht⟩ | ⟨w, i, b, rest, hp, hs, hc, hd, hr, ht⟩ |
    ⟨w, i, b, rest, hp, hs, hc, hd, hr, ht⟩ | ⟨w, i, v, r, rest, hp, hs, hc, hd, hr, hn, ht⟩ |
    ⟨e, rest, hs, hl, ht⟩ | ⟨rest, hs, ht⟩ | ⟨fn, ins, i, o, rest, hs, hd, ht⟩
  · exact ⟨.stay, hs, ht⟩
  · exact ⟨.refuse w c rest, ⟨hs, hp, hd⟩, ht⟩
  · exact ⟨.start w i rest, ⟨hs, hp, hd⟩, ht⟩
  · exact ⟨.failRead i e rest, ⟨hs, hp, w, hc, hd⟩, ht⟩
  · exact ⟨.finishRead i b rest, ⟨hs, hp, ⟨w, hc, hd⟩, hr⟩, ht⟩
  · exact ⟨.writeBack i b rest, ⟨hs, hp, ⟨w, hc, hd⟩, hr⟩, ht⟩
  · exact ⟨.finishWrite i v r rest, ⟨hs, hp, ⟨w, hc, hd⟩, hr, hn⟩, ht⟩
  · exact ⟨.dropAnswer e rest, ⟨hs, hl⟩, ht⟩
  · exact ⟨.reset rest, hs, ht⟩
  · refine ⟨.codec fn ins o rest, ⟨hs, i, hd, ?_⟩, ht⟩
    exact (step_codec hs hd).symm.trans (h.trans (congrArg _ ht))

/-! ## What SEQ holds in each phase -/

theorem seqInv_idle_iff {s : State} (hp : s.phase = .idle) : SeqInv s ↔ LatchesEmpty s := by
  simp only [SeqInv, hp]

/-- In RD_WAIT the latched command has its read pending at the end of `T`. -/
theorem SeqInv.pending_read {s : State} {i : Instr} (h : SeqInv s) (hp : s.phase = .rdWait) (hi : Latched i s) :
    ∃ t, s.trace = t ++ [.rd 0x6B#7 (target i) none] := by
  simp only [SeqInv, hp] at h
  obtain ⟨w, j, hc, hd, -, -, ht⟩ := h
  obtain ⟨w', hc', hd'⟩ := hi
  obtain rfl : w = w' := by simpa [hc] using hc'
  obtain rfl : j = i := by simpa [hd] using hd'
  exact ht

/-- In WR_WAIT the latched command has the write of `S.NEW` pending at the end of `T`. -/
theorem SeqInv.pending_write {s : State} {i : Instr} {v : Byte} (h : SeqInv s) (hp : s.phase = .wrWait)
    (hi : Latched i s) (hn : s.new = some v) : ∃ t, s.trace = t ++ [.wr 0x6B#7 (target i) v none] := by
  simp only [SeqInv, hp] at h
  obtain ⟨w, j, b, hc, hd, -, -, hn', t, ht⟩ := h
  obtain ⟨w', hc', hd'⟩ := hi
  obtain rfl : w = w' := by simpa [hc] using hc'
  obtain rfl : j = i := by simpa [hd] using hd'
  obtain rfl : writtenByte j b = v := by simpa [hn'] using hn
  exact ⟨t ++ [.rd 0x6B#7 (target j) (some (.ok b))], by simpa using ht⟩

/-- Every move keeps what SEQ holds in each phase. -/
theorem Move.apply_seqInv {m : Move} {s : State} (h : SeqInv s) (hm : m.Enabled s) : SeqInv (m.apply s) := by
  cases m with
  | stay | dropAnswer e rest | codec fn ins o rest => exact h
  | refuse w c rest | failRead i e rest | finishRead i b rest | finishWrite i v r rest | reset rest =>
    exact (seqInv_idle_iff rfl).2 ⟨rfl, rfl, rfl⟩
  | start w i rest =>
    obtain ⟨-, hp, hd⟩ := hm
    obtain ⟨-, hold, hnew⟩ := (seqInv_idle_iff hp).1 h
    exact ⟨w, i, rfl, hd, hold, hnew, s.trace, rfl⟩
  | writeBack i b rest =>
    obtain ⟨-, hp, hi, hr⟩ := hm
    obtain ⟨t, ht⟩ := h.pending_read hp hi
    obtain ⟨w, hc, hd⟩ := hi
    refine ⟨w, i, b, hc, hd, hr, rfl, rfl, t, ?_⟩
    simp [Move.apply, ht]

/-- Settles O49, by the move that the step makes. -/
theorem stepKeepsSeqInv : Obligations.StepKeepsSeqInv := by
  intro s t hs h
  obtain ⟨m, hm, rfl⟩ := step_eq_next_iff.1 h
  exact m.apply_seqInv hs hm

/-! ## The response -/

namespace Move

/-- The response a move writes, if it ends a command (R24, R198). -/
def ending : Move → Option Resp
  | refuse _ c _ => some ⟨2#2, refusalData c, none, none⟩
  | failRead _ e _ => some ⟨1#2, 0#16, some e, none⟩
  | finishRead i b _ => some ⟨0#2, resultData i b, none, resultView i b⟩
  | finishWrite _ _ r _ => some (writeEnding r)
  | stay => none
  | start _ _ _ => none
  | writeBack _ _ _ => none
  | dropAnswer _ _ => none
  | reset _ => none
  | codec _ _ _ _ => none

/-- A move that ends a command writes its response once, in IDLE with empty latches. -/
theorem apply_of_ending {m : Move} {r : Resp} (h : m.ending = some r) (s : State) :
    (m.apply s).resp = some r ∧ (m.apply s).hostIndex = s.hostIndex + 1 ∧ (m.apply s).phase = .idle ∧
      LatchesEmpty (m.apply s) := by
  cases m with
  | stay | start w i rest | writeBack i b rest | dropAnswer e rest | reset rest | codec fn ins o rest => cases h
  | refuse w c rest | failRead i e rest | finishRead i b rest | finishWrite i v r rest =>
    exact ⟨h, rfl, rfl, rfl, rfl, rfl⟩

/-- Any other move leaves the host's index as it is, and the response too unless it is a reset. -/
theorem apply_of_no_ending {m : Move} (h : m.ending = none) (s : State) :
    (m.apply s).hostIndex = s.hostIndex ∧
      ((m.apply s).resp = s.resp ∨ ((m.apply s).resp = none ∧ ∃ rest, m = .reset rest)) := by
  cases m with
  | refuse w c rest | failRead i e rest | finishRead i b rest | finishWrite i v r rest => cases h
  | stay | start w i rest | writeBack i b rest | dropAnswer e rest | codec fn ins o rest => exact ⟨rfl, .inl rfl⟩
  | reset rest => exact ⟨rfl, .inr ⟨rfl, rest, rfl⟩⟩

end Move

/-- A view is presented only of the byte that is in DATA (R165). -/
theorem resultView_cases (i : Instr) (b : Byte) :
    resultView i b = none ∨
      (resultData i b = b.setWidth 16 ∧
        (resultView i b = some (.ss (decSs b)) ∨ resultView i b = some (.nf (decNf b)))) := by
  cases i with
  | status => exact .inr ⟨rfl, .inl rfl⟩
  | newFault => exact .inr ⟨rfl, .inr rfl⟩
  | _ => exact .inl rfl

theorem respOk_result (i : Instr) (b : Byte) : RespOk ⟨0#2, resultData i b, none, resultView i b⟩ := by
  refine .inl ⟨rfl, rfl, (resultView_cases i b).imp_right fun ⟨hdata, hview⟩ => ?_⟩
  have hlow : (b.setWidth 16).setWidth 8 = b := by simp
  have hlt : (b.setWidth 16).toNat < 256 := by
    rw [BitVec.toNat_setWidth]
    omega
  simpa only [hdata, hlow] using And.intro hlt hview

theorem respOk_busError (e : BusError) : RespOk ⟨1#2, 0#16, some e, none⟩ := .inr (.inl ⟨rfl, rfl, nofun, rfl⟩)

theorem respOk_refused (c : RefusalCode) : RespOk ⟨2#2, refusalData c, none, none⟩ := by
  have hcode : 1 ≤ (refusalData c).toNat ∧ (refusalData c).toNat ≤ 4 := by cases c <;> decide
  exact .inr (.inr ⟨rfl, hcode.1, hcode.2, rfl, rfl⟩)

theorem respOk_writeEnding (r : WriteResult) : RespOk (writeEnding r) := by
  cases r with
  | ok => exact .inl ⟨rfl, rfl, .inl rfl⟩
  | err e => exact respOk_busError e

/-- Every response a move writes is one the spec allows. -/
theorem Move.ending_respOk {m : Move} {r : Resp} (h : m.ending = some r) : RespOk r := by
  cases m with
  | stay | start w i rest | writeBack i b rest | dropAnswer e rest | reset rest | codec fn ins o rest => cases h
  | refuse w c rest => cases h; exact respOk_refused c
  | failRead i e rest => cases h; exact respOk_busError e
  | finishRead i b rest => cases h; exact respOk_result i b
  | finishWrite i v r rest => cases h; exact respOk_writeEnding r

/-- Settles O50: a step keeps the response, clears it, or writes one that the spec allows. -/
theorem stepKeepsRespInv : Obligations.StepKeepsRespInv := by
  intro s t hs h r hr
  obtain ⟨m, -, rfl⟩ := step_eq_next_iff.1 h
  cases hend : m.ending with
  | some r' =>
    obtain ⟨hresp, -⟩ := m.apply_of_ending hend s
    obtain rfl : r' = r := by simpa [hresp] using hr
    exact m.ending_respOk hend
  | none =>
    rcases (m.apply_of_no_ending hend s).2 with hresp | ⟨hresp, -⟩
    · exact hs r (hresp ▸ hr)
    · simp [hresp] at hr

/-- Settles O43, by whether the step's move ends a command. -/
theorem responseOnlyAtCommandEnd : Obligations.ResponseOnlyAtCommandEnd := by
  intro s t h
  obtain ⟨m, hm, rfl⟩ := step_eq_next_iff.1 h
  cases hend : m.ending with
  | some r =>
    obtain ⟨hresp, hk, hp, hl⟩ := m.apply_of_ending hend s
    exact .inr ⟨hk, by simp [hresp], hp, hl⟩
  | none =>
    obtain ⟨hk, hresp⟩ := m.apply_of_no_ending hend s
    refine .inl ⟨hk, hresp.imp_right fun ⟨hnone, rest, hreset⟩ => ⟨hnone, rest, ?_⟩⟩
    subst hreset
    exact hm

/-! ## The trace -/

namespace Move

/-- How many pending entries at the end of `T` a move answers. -/
def answers : Move → Nat
  | failRead _ _ _ => 1
  | finishRead _ _ _ => 1
  | writeBack _ _ _ => 1
  | finishWrite _ _ _ _ => 1
  | stay => 0
  | refuse _ _ _ => 0
  | start _ _ _ => 0
  | dropAnswer _ _ => 0
  | reset _ => 0
  | codec _ _ _ _ => 0

/-- The entries a move puts at the end of `T`: the answered one, then the one it issues (R61, R62). -/
def entries : Move → List Entry
  | start _ i _ => [.rd 0x6B#7 (target i) none]
  | failRead i e _ => [.rd 0x6B#7 (target i) (some (.err e))]
  | finishRead i b _ => [.rd 0x6B#7 (target i) (some (.ok b))]
  | writeBack i b _ => [.rd 0x6B#7 (target i) (some (.ok b)), .wr 0x6B#7 (target i) (writtenByte i b) none]
  | finishWrite i v r _ => [.wr 0x6B#7 (target i) v (some r)]
  | stay => []
  | refuse _ _ _ => []
  | dropAnswer _ _ => []
  | reset _ => []
  | codec _ _ _ _ => []

/-- The requests a move puts on the transport's port (R60). -/
def requests (m : Move) : List BusRequest := (m.entries.drop m.answers).map busRequest

theorem answers_le_one (m : Move) : m.answers ≤ 1 := by cases m <;> simp [answers]

theorem length_requests_le_one (m : Move) : m.requests.length ≤ 1 := by
  cases m <;> simp [requests, entries, answers]

/-- From every state, a move puts its entries in the place of those it answers. -/
theorem appended (m : Move) (s : State) : Appended s (m.apply s) m.answers m.entries := by
  cases m with
  | stay | refuse w c rest | dropAnswer e rest | reset rest | codec fn ins o rest =>
    exact appended_of_append (List.append_nil _).symm
  | start w i rest => exact appended_of_append rfl
  | failRead i e rest | finishRead i b rest | finishWrite i v r rest =>
    exact appended_of_replaceLast (List.append_nil _).symm
  | writeBack i b rest => exact appended_of_replaceLast rfl

end Move

/-- Answering the pending entry changes no request (R60, R71). -/
theorem map_busRequest_of_appended {s t : State} {u new : List Entry} {x e : Entry} (ha : Appended s t 1 (e :: new))
    (hs : s.trace = u ++ [x]) (hx : busRequest x = busRequest e) :
    t.trace.map busRequest = s.trace.map busRequest ++ new.map busRequest := by
  rw [Appended] at ha
  simp [ha, hs, hx]

/-- Where SEQ is as `SeqInv` says, a move keeps the requests in their places and adds its own after them. -/
theorem Move.requests_eq {m : Move} {s : State} (h : SeqInv s) (hm : m.Enabled s) :
    (m.apply s).trace.map busRequest = s.trace.map busRequest ++ m.requests := by
  cases m with
  | stay | refuse w c rest | dropAnswer e rest | reset rest | codec fn ins o rest => exact (List.append_nil _).symm
  | start w i rest => exact List.map_append
  | failRead i e rest =>
    obtain ⟨-, hp, hi⟩ := hm
    obtain ⟨u, hu⟩ := h.pending_read hp hi
    exact map_busRequest_of_appended (appended _ s) hu rfl
  | finishRead i b rest =>
    obtain ⟨-, hp, hi, -⟩ := hm
    obtain ⟨u, hu⟩ := h.pending_read hp hi
    exact map_busRequest_of_appended (appended _ s) hu rfl
  | writeBack i b rest =>
    obtain ⟨-, hp, hi, -⟩ := hm
    obtain ⟨u, hu⟩ := h.pending_read hp hi
    exact map_busRequest_of_appended (appended _ s) hu rfl
  | finishWrite i v r rest =>
    obtain ⟨-, hp, hi, -, hn⟩ := hm
    obtain ⟨u, hu⟩ := h.pending_write hp hi hn
    exact map_busRequest_of_appended (appended _ s) hu rfl

/-- A step that answers at most the last entry keeps all the others. -/
theorem dropLast_prefix_of_appended {s t : State} {k : Nat} {new : List Entry} (hk : k ≤ 1)
    (h : Appended s t k new) : s.trace.dropLast <+: t.trace := by
  rw [h, List.dropLast_eq_take]
  exact (List.take_prefix_take_left (by omega)).trans (List.prefix_append _ _)

/-- Settles O55: the step's move answers at most the last entry and issues at most one request. -/
theorem traceOnlyGrows : Obligations.TraceOnlyGrows := by
  intro s t hs h
  obtain ⟨m, hm, rfl⟩ := step_eq_next_iff.1 h
  have hreq := m.requests_eq hs hm
  refine ⟨dropLast_prefix_of_appended m.answers_le_one (m.appended s), ⟨_, hreq.symm⟩, ?_⟩
  calc (m.apply s).trace.length = s.trace.length + m.requests.length := by simpa using congrArg List.length hreq
    _ ≤ s.trace.length + 1 := Nat.add_le_add_left m.length_requests_le_one _

/-! ## States that agree on what SEQ holds (R28) -/

/-- A CODEC function reads nothing but its input ports (R27). -/
theorem exec_codec_congr {i : Instr} {s s' : State} {o : CodecOut} (hc : isCommand i = false)
    (hin : s.codecIn = s'.codecIn) (h : exec i s = .next (presentCodec o s)) :
    exec i s' = .next (presentCodec o s') := by
  cases i <;> simp only [isCommand, Bool.true_eq_false] at hc
  all_goals
    injection h with h
    obtain rfl : _ = o := Option.some.inj (congrArg State.codecOut h)
    rw [hin]; rfl

namespace Move

/-- What is enabled depends on nothing an earlier command left behind. -/
theorem Enabled.of_sameSeq {m : Move} {s s' : State} (h : SameSeq s s') (hm : m.Enabled s) : m.Enabled s' := by
  obtain ⟨hp, hc, -, hn, hs⟩ := h
  cases m with
  | codec fn ins o rest =>
    obtain ⟨hscript, i, hd, he⟩ := hm
    exact ⟨hs ▸ hscript, i, hd, exec_codec_congr (s := driveCodec ins rest s) (decodeFn_ok_codec hd) rfl he⟩
  | dropAnswer e rest =>
    obtain ⟨hscript, hl⟩ := hm
    refine ⟨hs ▸ hscript, ?_⟩
    cases e with
    | readAnswer r | writeAnswer r => exact fun hp' => hl (hp.trans hp')
    | accept w | reset | codec fn ins => exact hl.elim
  | _ => simpa only [Enabled, Latched, hp, hc, hn, hs] using hm

/-- A move takes states that agree to states that agree. -/
theorem apply_sameSeq (m : Move) {s s' : State} (h : SameSeq s s') : SameSeq (m.apply s) (m.apply s') := by
  obtain ⟨hp, hc, ho, hn, hs⟩ := h
  cases m with
  | stay => exact ⟨hp, hc, ho, hn, hs⟩
  | refuse w c rest | failRead i e rest | finishRead i b rest | finishWrite i v r rest | reset rest =>
    exact ⟨rfl, rfl, rfl, rfl, rfl⟩
  | start w i rest => exact ⟨rfl, rfl, ho, hn, rfl⟩
  | writeBack i b rest => exact ⟨rfl, hc, rfl, rfl, rfl⟩
  | dropAnswer e rest | codec fn ins o rest => exact ⟨hp, hc, ho, hn, rfl⟩

/-- A command that a move ends gets the same response from every state. -/
theorem apply_resp_eq (m : Move) {s s' : State} (h : (m.apply s).hostIndex ≠ s.hostIndex) :
    (m.apply s').resp = (m.apply s).resp := by
  cases hend : m.ending with
  | some r => rw [(m.apply_of_ending hend s).1, (m.apply_of_ending hend s').1]
  | none => exact absurd (m.apply_of_no_ending hend s).1 h

end Move

/-- Settles O56: the move that is enabled in one state is enabled in the other, and what a move does to phase, latches,
script, response and `T` is in the move. -/
theorem nothingCarriesOver : Obligations.NothingCarriesOver := by
  intro s s' t hsame h
  obtain ⟨m, hm, rfl⟩ := step_eq_next_iff.1 h
  have hm' := hm.of_sameSeq hsame
  exact ⟨m.apply s', m.step_eq hm', m.apply_sameSeq hsame, m.apply_resp_eq,
    ⟨m.answers, m.entries, m.answers_le_one, m.appended s, m.appended s'⟩,
    fun hinv hinv' => ⟨m.requests, m.requests_eq hinv hm, m.requests_eq hinv' hm'⟩⟩

/-! ## Reset -/

/-- Settles O45: the start of a run by its definition, a reset during one by its step. -/
theorem resetValues : Obligations.ResetValues :=
  ⟨⟨rfl, rfl, rfl, rfl, rfl, rfl⟩, fun _ _ hs => ⟨_, step_reset hs, rfl, ⟨rfl, rfl, rfl⟩, rfl, rfl⟩⟩

/-- Settles O53: after reset the latches, the response, `T` and the script are empty. -/
theorem resetMeetsInvariants : Obligations.ResetMeetsInvariants := by
  refine ⟨(seqInv_idle_iff rfl).2 ⟨rfl, rfl, rfl⟩, ?resp, ?trace, ?script, ?outstanding⟩
  case resp => intro r hr; cases hr
  all_goals exact fun e he => nomatch he

end Sys2Proof.Machine
end

section
/-! PROOFS. The transactions on the memory port (20_memory.md): which registers they name (R62, R63, R64), how many are
outstanding (R72), and what they put on the port (R60, R66). The invariants are one case analysis over the moves. -/

namespace Sys2Proof.Machine

/-! ## Which registers a transaction names -/

theorem toNat_regAddr_le (reg : RegIndex) : (regAddr reg).toNat ≤ reg.toNat := by
  rw [regAddr, BitVec.toNat_setWidth]
  exact Nat.mod_le _ _

/-- The target of a well-formed RMW command is a writable register (R64). -/
theorem target_le_of_isRmw {i : Instr} (hw : i.wellFormed = true) (hr : isRmw i = true) : (target i).toNat ≤ 0x07 := by
  cases i with
  | update reg mask data =>
    have hreg : reg.toNat < 8 := of_decide_eq_true hw
    exact (toNat_regAddr_le reg).trans (Nat.le_of_lt_succ hreg)
  | disableWatchdog | resetWatchdog | setIchgMa m => simp [target]
  | _ => cases hr

/-- The target of a well-formed instruction is a register of the map (R63). -/
theorem target_le_of_wellFormed {i : Instr} (hw : i.wellFormed = true) : (target i).toNat ≤ 0x0A := by
  cases i with
  | read reg =>
    have hreg : reg.toNat < 11 := of_decide_eq_true hw
    exact (toNat_regAddr_le reg).trans (Nat.le_of_lt_succ hreg)
  | update reg mask data => exact (target_le_of_isRmw hw rfl).trans (by decide)
  | _ => simp [target]

theorem entryOk_read {w : CmdWord} {i : Instr} (hd : decodeCommand w = .ok i) (r : Option ReadResult) :
    EntryOk (.rd 0x6B#7 (target i) r) :=
  ⟨rfl, target_le_of_wellFormed (decodeCommand_ok_command hd).1⟩

theorem entryOk_write {w : CmdWord} {i : Instr} (hd : decodeCommand w = .ok i) (hr : isRmw i = true) (v : Byte)
    (r : Option WriteResult) : EntryOk (.wr 0x6B#7 (target i) v r) :=
  ⟨rfl, target_le_of_isRmw (decodeCommand_ok_command hd).1 hr⟩

/-- Whatever an enabled move puts in `T` is a transaction SEQ may issue. -/
theorem Move.entries_ok {m : Move} {s : State} (hm : m.Enabled s) : ∀ e ∈ m.entries, EntryOk e := by
  cases m with
  | stay | refuse w c rest | dropAnswer e rest | reset rest | codec fn ins o rest => exact nofun
  | start w i rest =>
    obtain ⟨-, -, hd⟩ := hm
    exact List.forall_mem_singleton.2 (entryOk_read hd _)
  | failRead i e rest =>
    obtain ⟨-, -, w, -, hd⟩ := hm
    exact List.forall_mem_singleton.2 (entryOk_read hd _)
  | finishRead i b rest =>
    obtain ⟨-, -, ⟨w, -, hd⟩, -⟩ := hm
    exact List.forall_mem_singleton.2 (entryOk_read hd _)
  | writeBack i b rest =>
    obtain ⟨-, -, ⟨w, -, hd⟩, hr⟩ := hm
    exact List.forall_mem_cons.2 ⟨entryOk_read hd _, List.forall_mem_singleton.2 (entryOk_write hd hr _ _)⟩
  | finishWrite i v r rest =>
    obtain ⟨-, -, ⟨w, -, hd⟩, hr, -⟩ := hm
    exact List.forall_mem_singleton.2 (entryOk_write hd hr _ _)

/-- A step that appends only allowed transactions keeps `TraceInv`. -/
theorem TraceInv.of_appended {s t : State} {k : Nat} {new : List Entry} (h : TraceInv s) (ha : Appended s t k new)
    (hnew : ∀ e ∈ new, EntryOk e) : TraceInv t := by
  intro e he
  rw [ha, List.mem_append] at he
  exact he.elim (fun hold => h e (List.mem_of_mem_take hold)) (hnew e)

/-- Settles O51, by the entries of the step's move. -/
theorem stepKeepsTraceInv : Obligations.StepKeepsTraceInv := by
  intro s t hs h
  obtain ⟨m, hm, rfl⟩ := step_eq_next_iff.1 h
  exact hs.of_appended (m.appended s) (Move.entries_ok hm)

/-! ## How many transactions are outstanding -/

/-- In IDLE every transaction is answered. -/
theorem OneOutstanding.all_answered {s : State} (h : OneOutstanding s) (hp : s.phase = .idle) :
    ∀ e ∈ s.trace, answered e = true := by
  obtain ⟨-, ht⟩ := h
  simpa only [hp] using ht

/-- In every phase, all transactions but the last are answered. -/
theorem OneOutstanding.dropLast_answered {s : State} (h : OneOutstanding s) :
    ∀ e ∈ s.trace.dropLast, answered e = true := by
  obtain ⟨-, ht⟩ := h
  split at ht
  · exact fun e he => ht e (List.mem_of_mem_dropLast he)
  all_goals
    obtain ⟨t, x, htrace, -, hall⟩ := ht
    simpa [htrace] using hall

/-- Answering the last transaction leaves none outstanding. -/
theorem OneOutstanding.replaceLast_answered {s : State} (h : OneOutstanding s) {e : Entry} (he : answered e = true) :
    ∀ x ∈ replaceLast s.trace e, answered x = true :=
  List.forall_mem_append.2 ⟨h.dropLast_answered, List.forall_mem_singleton.2 he⟩

/-- A move adds no event to the script. -/
theorem Move.apply_script_subset {m : Move} {s : State} (hm : m.Enabled s) : (m.apply s).script ⊆ s.script := by
  have hrest : ∀ {e : Event} {rest : List Event}, s.script = e :: rest → rest ⊆ s.script :=
    fun hs => hs ▸ List.subset_cons_self _ _
  cases m with
  | stay => exact List.Subset.refl _
  | reset rest => exact hrest hm
  | _ => exact hrest hm.1

/-- With no reset to come, every move leaves at most one transaction outstanding: one that issues a transaction finds all
the earlier ones answered or answers the last. -/
theorem Move.apply_oneOutstanding {m : Move} {s : State} (h : OneOutstanding s) (hm : m.Enabled s) :
    OneOutstanding (m.apply s) := by
  have ⟨hnoreset, htrace⟩ := h
  refine ⟨fun e he => hnoreset e (apply_script_subset hm he), ?_⟩
  cases m with
  | stay | dropAnswer e rest | codec fn ins o rest => exact htrace
  | refuse w c rest =>
    obtain ⟨-, hp, -⟩ := hm
    exact h.all_answered hp
  | start w i rest =>
    obtain ⟨-, hp, -⟩ := hm
    exact ⟨s.trace, _, rfl, rfl, h.all_answered hp⟩
  | failRead i e rest | finishRead i b rest | finishWrite i v r rest => exact h.replaceLast_answered rfl
  | writeBack i b rest => exact ⟨_, _, rfl, rfl, h.replaceLast_answered rfl⟩
  | reset rest => exact absurd rfl (hnoreset .reset (hm ▸ List.mem_cons_self))

/-- Settles O52, by the move that the step makes; `SeqInv` is not needed. -/
theorem stepKeepsOneOutstanding : Obligations.StepKeepsOneOutstanding := by
  intro s t _ hs h
  obtain ⟨m, hm, rfl⟩ := step_eq_next_iff.1 h
  exact Move.apply_oneOutstanding hs hm

/-! ## What a transaction puts on the port -/

/-- A well-formed RMW command whose read answered issues its write (R152, R162). -/
theorem exec_rmw_read_ok {i : Instr} {s : State} {b : Byte} {rest : List Event} (hw : i.wellFormed = true)
    (hr : isRmw i = true) (hp : s.phase = .rdWait) (hs : s.script = .readAnswer (.ok b) :: rest) :
    exec i s = .next (issueWrite (target i) (writtenByte i b)
      (setNew (writtenByte i b) (setOld b (settleRead (target i) (.ok b) (takeEvent rest s))))) := by
  rw [exec_rmw hw hr, rmwSeq_read_ok _ _ hp hs]

/-- Settles O37, by the entry of the read that starts a command and that of the write that follows its answer. -/
theorem payloadsAreAddressThenValue : Obligations.PayloadsAreAddressThenValue := by
  intro s i rest hw hc
  refine ⟨fun hp => ⟨_, exec_idle hw hc hp, ?starts⟩, fun b hr hp hs => ⟨_, exec_rmw_read_ok hw hr hp hs, ?writes⟩⟩
  case starts => exact List.map_append
  case writes => simp [busRequest]

end Sys2Proof.Machine
end

section
/-! PROOFS. The encoding (30_encoding.md). The command decoder in terms of the four fields of a word, from which follow
its answer on every word, that it and the encoder undo each other, and the match-and-mask table. -/

namespace Sys2Proof

/-! ## Words as their four fields (R80) -/

/-- A word taken apart. -/
theorem exists_packWord (w : CmdWord) : ∃ op reg mask operand, w = packWord op reg mask operand :=
  ⟨_, _, _, _, (packWord_fields w).symm⟩

section Fields

variable (op op' : BitVec 4) (reg reg' : RegIndex) (mask mask' : Byte) (operand operand' : Half)

theorem packWord_inj :
    packWord op reg mask operand = packWord op' reg' mask' operand' ↔
      op = op' ∧ reg = reg' ∧ mask = mask' ∧ operand = operand' := by
  constructor
  · intro h
    have hop := congrArg opField h
    have hreg := congrArg regField h
    have hmask := congrArg maskField h
    have hoperand := congrArg operandField h
    simp only [opField_packWord, regField_packWord, maskField_packWord, operandField_packWord]
      at hop hreg hmask hoperand
    exact ⟨hop, hreg, hmask, hoperand⟩
  · rintro ⟨rfl, rfl, rfl, rfl⟩
    rfl

/-- Masking a word masks each field. -/
theorem packWord_and :
    packWord op reg mask operand &&& packWord op' reg' mask' operand' =
      packWord (op &&& op') (reg &&& reg') (mask &&& mask') (operand &&& operand') := by
  apply BitVec.eq_of_getLsbD_eq
  intro i hi
  simp only [BitVec.getLsbD_and, packWord_getLsbD]
  split_ifs <;> rfl

/-- A word under a mask, compared with a match: field by field (R91). -/
theorem packWord_and_eq_iff (m e : CmdWord) :
    packWord op reg mask operand &&& m = e ↔
      op &&& opField m = opField e ∧ reg &&& regField m = regField e ∧ mask &&& maskField m = maskField e ∧
        operand &&& operandField m = operandField e := by
  rw [← packWord_inj, ← packWord_and, packWord_fields, packWord_fields]

end Fields

/-- The `REG` field as the number R91 names. -/
theorem ofNat_toNat_div_eq_regField (w : CmdWord) : BitVec.ofNat 4 (w.toNat / 2 ^ 24) = regField w := by
  rw [regField, BitVec.extractLsb', Nat.shiftRight_eq_div_pow]

theorem ofNat_toNat_div_eq_maskField (w : CmdWord) : BitVec.ofNat 8 (w.toNat / 2 ^ 16) = maskField w := by
  rw [maskField, BitVec.extractLsb', Nat.shiftRight_eq_div_pow]

theorem ofNat_toNat_eq_operandField (w : CmdWord) : BitVec.ofNat 16 w.toNat = operandField w := rfl

theorem ofNat_toNat_eq_dataField (w : CmdWord) : BitVec.ofNat 8 w.toNat = dataField w := rfl

theorem toNat_div_mod_eq_regField (w : CmdWord) : w.toNat / 2 ^ 24 % 16 = (regField w).toNat := by
  rw [← ofNat_toNat_div_eq_regField, BitVec.toNat_ofNat]

/-! ## The decoder, one equation per `OP` (R90) -/

/-- The should-be-zero check, field by field: no `OP` bit is should-be-zero (R87). -/
theorem packWord_and_sbzMask_eq_zero_iff (op : BitVec 4) (reg : RegIndex) (mask : Byte) (operand : Half) :
    packWord op reg mask operand &&& sbzMask op = 0#32 ↔
      reg &&& regField (sbzMask op) = 0#4 ∧ mask &&& maskField (sbzMask op) = 0#8 ∧
        operand &&& operandField (sbzMask op) = 0#16 := by
  have hop : opField (sbzMask op) = 0#4 := by revert op; decide
  have hzero : 0#32 = packWord 0#4 0#4 0#8 0#16 := rfl
  simp only [packWord_and_eq_iff, hop, hzero, opField_packWord, regField_packWord, maskField_packWord,
    operandField_packWord, BitVec.and_zero, true_and]

/-- An operand that sets none of its upper eight bits is a byte (R84, R87). -/
theorem and_upper_byte_eq_zero_iff (operand : Half) : operand &&& 0xFF00#16 = 0#16 ↔ operand.toNat < 256 := by
  have hshift : operand &&& 0xFF00#16 = operand >>> 8 <<< 8 :=
    (BitVec.shiftLeft_ushiftRight (x := operand) (n := 8)).symm
  rw [hshift, BitVec.toNat_eq]
  simp only [BitVec.toNat_shiftLeft, BitVec.toNat_ushiftRight, Nat.shiftRight_eq_div_pow, Nat.shiftLeft_eq,
    Nat.reducePow, BitVec.toNat_ofNat, Nat.zero_mod]
  have := operand.isLt
  omega

section Fields

variable (reg : RegIndex) (mask : Byte) (operand : Half)

theorem decodeCommand_reserved {op : BitVec 4} (h : 8 ≤ op.toNat) :
    decodeCommand (packWord op reg mask operand) = .error .OPCODE := by
  rw [decodeCommand, opField_packWord, if_pos h]

theorem decodeCommand_read :
    decodeCommand (packWord 0#4 reg mask operand) =
      if mask ≠ 0#8 ∨ operand ≠ 0#16 then .error .FORMAT
      else if 10 < reg.toNat then .error .REG
      else .ok (.read reg) := by
  have hsbz : packWord 0#4 reg mask operand &&& sbzMask 0#4 = 0#32 ↔ mask = 0#8 ∧ operand = 0#16 := by
    rw [packWord_and_sbzMask_eq_zero_iff]
    change reg &&& 0#4 = 0#4 ∧ mask &&& BitVec.allOnes 8 = 0#8 ∧ operand &&& BitVec.allOnes 16 = 0#16 ↔ _
    simp only [BitVec.and_zero, BitVec.and_allOnes, true_and]
  simp [decodeCommand, commandOf, hsbz, ← not_and_or]

theorem decodeCommand_update :
    decodeCommand (packWord 1#4 reg mask operand) =
      if 256 ≤ operand.toNat then .error .FORMAT
      else if 10 < reg.toNat then .error .REG
      else if 8 ≤ reg.toNat then .error .RO
      else .ok (.update reg mask (operand.setWidth 8)) := by
  have hsbz : packWord 1#4 reg mask operand &&& sbzMask 1#4 = 0#32 ↔ operand.toNat < 256 := by
    rw [packWord_and_sbzMask_eq_zero_iff, ← and_upper_byte_eq_zero_iff]
    change reg &&& 0#4 = 0#4 ∧ mask &&& 0#8 = 0#8 ∧ operand &&& 0xFF00#16 = 0#16 ↔ _
    simp only [BitVec.and_zero, true_and]
  simp [decodeCommand, commandOf, hsbz]

theorem decodeCommand_setIchgMa :
    decodeCommand (packWord 7#4 reg mask operand) =
      if reg ≠ 0#4 ∨ mask ≠ 0#8 then .error .FORMAT else .ok (.setIchgMa operand) := by
  have hsbz : packWord 7#4 reg mask operand &&& sbzMask 7#4 = 0#32 ↔ reg = 0#4 ∧ mask = 0#8 := by
    rw [packWord_and_sbzMask_eq_zero_iff]
    change reg &&& BitVec.allOnes 4 = 0#4 ∧ mask &&& BitVec.allOnes 8 = 0#8 ∧ operand &&& 0#16 = 0#16 ↔ _
    simp only [BitVec.and_zero, BitVec.and_allOnes, and_true]
  simp [decodeCommand, commandOf, hsbz, ← not_and_or]

/-- `OP` 2 to 6 carry no operand: the word has its `OP` and nothing else (R85). -/
theorem decodeCommand_noOperands {op : BitVec 4} (h : 2 ≤ op.toNat ∧ op.toNat ≤ 6) :
    decodeCommand (packWord op reg mask operand) =
      if reg ≠ 0#4 ∨ mask ≠ 0#8 ∨ operand ≠ 0#16 then .error .FORMAT
      else commandOf (packWord op 0#4 0#8 0#16) := by
  have hmask : sbzMask op = packWord 0#4 (BitVec.allOnes 4) (BitVec.allOnes 8) (BitVec.allOnes 16) := by
    revert op; decide
  have hsbz : packWord op reg mask operand &&& sbzMask op = 0#32 ↔ reg = 0#4 ∧ mask = 0#8 ∧ operand = 0#16 := by
    rw [packWord_and_sbzMask_eq_zero_iff, hmask]
    simp only [regField_packWord, maskField_packWord, operandField_packWord, BitVec.and_allOnes]
  have hlt : ¬ 8 ≤ op.toNat := by omega
  have h0 : op ≠ 0#4 := by rintro rfl; exact absurd h.1 (by decide)
  have h1 : op ≠ 1#4 := by rintro rfl; exact absurd h.1 (by decide)
  simp only [decodeCommand, opField_packWord, if_neg hlt, ne_eq, hsbz, h0, h1, false_and, if_false, ← not_and_or]
  by_cases hzero : reg = 0#4 ∧ mask = 0#8 ∧ operand = 0#16
  · obtain ⟨rfl, rfl, rfl⟩ := hzero
    rfl
  · simp only [hzero, not_false_eq_true, if_true]

end Fields

/-- The rows of the table of commands, by `OP` (R81). -/
theorem op_cases (op : BitVec 4) :
    8 ≤ op.toNat ∨ op = 0#4 ∨ op = 1#4 ∨ op = 7#4 ∨ (2 ≤ op.toNat ∧ op.toNat ≤ 6) := by
  revert op; decide

/-- The commands without operands, by `OP` (R81). -/
theorem commandOf_noOperands {op : BitVec 4} (h : 2 ≤ op.toNat ∧ op.toNat ≤ 6) :
    commandOf (packWord op 0#4 0#8 0#16) =
      if op.toNat = 2 then .ok .disableWatchdog
      else if op.toNat = 3 then .ok .resetWatchdog
      else if op.toNat = 4 then .ok .status
      else if op.toNat = 5 then .ok .newFault
      else .ok .getIchgMa := by
  revert op; decide

/-- Settles O3, by the decoder's equation for each `OP`. -/
theorem decoderChecksInOrder : Obligations.DecoderChecksInOrder := by
  refine ⟨exists_packWord, fun op reg mask operand => ?_⟩
  change decodeCommand (packWord op reg mask operand) = _
  rcases op_cases op with h | rfl | rfl | rfl | h
  · rw [decodeCommand_reserved _ _ _ h, if_pos h]
  · rw [decodeCommand_read]
    simp [BitVec.toNat_eq]
  · rw [decodeCommand_update]
    rfl
  · rw [decodeCommand_setIchgMa]
    simp [BitVec.toNat_eq]
  · obtain ⟨h2, h6⟩ := h
    have h8 : ¬ 8 ≤ op.toNat := by omega
    have h0 : op.toNat ≠ 0 := by omega
    have h1 : op.toNat ≠ 1 := by omega
    have h7 : op.toNat ≠ 7 := by omega
    rw [decodeCommand_noOperands _ _ _ ⟨h2, h6⟩, commandOf_noOperands ⟨h2, h6⟩]
    simp [h8, h0, h1, h7, BitVec.toNat_eq]

/-! ## Decoder and encoder undo each other -/

/-- A byte in the `OPERAND` field sets none of its upper eight bits (R84). -/
theorem toNat_setWidth_byte_lt (data : Byte) : (data.setWidth 16).toNat < 256 := by
  rw [BitVec.toNat_setWidth]
  exact (Nat.mod_le _ _).trans_lt data.isLt

/-- Settles O1: a well-formed command's word passes the checks of its `OP`, and a CODEC function's select is its row of
R92. -/
theorem decodeEncodeAgree : Obligations.DecodeEncodeAgree := by
  intro i hw
  cases i with
  | read reg =>
    have hreg : ¬ 10 < reg.toNat := by
      have : reg.toNat < 11 := of_decide_eq_true hw
      omega
    simp [encode, decode, decodeCommand_read, hreg, Except.toOption]
  | update reg mask data =>
    have hreg : reg.toNat < 8 := of_decide_eq_true hw
    have h10 : ¬ 10 < reg.toNat := by omega
    have h8 : ¬ 8 ≤ reg.toNat := by omega
    have hdata : ¬ 256 ≤ (data.setWidth 16).toNat := Nat.not_le.2 (toNat_setWidth_byte_lt data)
    have hback : (data.setWidth 16).setWidth 8 = data := by simp
    rw [encode, decode, decodeCommand_update, if_neg hdata, if_neg h10, if_neg h8, hback]
    rfl
  | setIchgMa milliamps => simp [encode, decode, decodeCommand_setIchgMa, Except.toOption]
  | _ => rfl

/-- An operand below 256 is its low byte, extended (R84). -/
theorem setWidth_setWidth_eq_self_iff (operand : Half) :
    (operand.setWidth 8).setWidth 16 = operand ↔ operand.toNat < 256 := by
  have := operand.isLt
  rw [BitVec.toNat_eq]
  simp only [BitVec.toNat_setWidth]
  omega

/-- The word of a decoded command, from its four fields. -/
theorem encode_of_decodeCommand_eq_ok {w : CmdWord} {i : Instr} (h : decodeCommand w = .ok i) :
    encode i = .command w := by
  obtain ⟨op, reg, mask, operand, rfl⟩ := exists_packWord w
  rcases op_cases op with hop | rfl | rfl | rfl | hop
  · rw [decodeCommand_reserved _ _ _ hop] at h
    cases h
  · rw [decodeCommand_read] at h
    split_ifs at h with hsbz
    cases h
    simp only [not_or, not_not] at hsbz
    obtain ⟨rfl, rfl⟩ := hsbz
    rfl
  · rw [decodeCommand_update] at h
    split_ifs at h with hsbz
    cases h
    rw [encode, (setWidth_setWidth_eq_self_iff operand).2 (by omega)]
  · rw [decodeCommand_setIchgMa] at h
    split_ifs at h with hsbz
    cases h
    simp only [not_or, not_not] at hsbz
    obtain ⟨rfl, rfl⟩ := hsbz
    rfl
  · rw [decodeCommand_noOperands _ _ _ hop] at h
    split_ifs at h with hsbz
    simp only [not_or, not_not] at hsbz
    obtain ⟨rfl, rfl, rfl⟩ := hsbz
    have hops : op = 2#4 ∨ op = 3#4 ∨ op = 4#4 ∨ op = 5#4 ∨ op = 6#4 := by clear h; revert op; decide
    rcases hops with rfl | rfl | rfl | rfl | rfl
    all_goals cases h; rfl

/-- Settles O2, by the encoding of the decoded command. -/
theorem acceptedWordNamesOneCommand : Obligations.AcceptedWordNamesOneCommand := by
  intro w i h
  obtain ⟨hw, hc⟩ := Machine.decodeCommand_ok_command h
  exact ⟨hw, hc, encode_of_decodeCommand_eq_ok h⟩

/-- The decoder accepts a word as a command exactly when the command is well-formed and the word is its encoding. -/
theorem decodeCommand_eq_ok_iff {w : CmdWord} {i : Instr} :
    decodeCommand w = .ok i ↔ i.wellFormed = true ∧ encode i = .command w := by
  constructor
  · intro h
    obtain ⟨hw, -, he⟩ := acceptedWordNamesOneCommand w i h
    exact ⟨hw, he⟩
  · rintro ⟨hw, he⟩
    have hd := decodeEncodeAgree i hw
    rw [he, decode] at hd
    cases hc : decodeCommand w with
    | error c => rw [hc] at hd; cases hd
    | ok j => rw [hc] at hd; cases hd; rfl

/-- A row without operands: its match is its whole word (R91). -/
theorem matchAndMask_noOperands {w e : CmdWord} {i : Instr} (hw : i.wellFormed = true) (he : encode i = .command e) :
    w &&& 0xFFFFFFFF#32 = e ↔ decodeCommand w = .ok i := by
  change w &&& BitVec.allOnes 32 = e ↔ _
  rw [BitVec.and_allOnes, decodeCommand_eq_ok_iff, he, Spelling.command.injEq, eq_comm (a := e)]
  simp only [hw, true_and]

/-- Settles O4: each row's match and mask say that the word is the encoding of the command with the operands read from
it. -/
theorem matchAndMaskSpellCommands : Obligations.MatchAndMaskSpellCommands := by
  intro w
  obtain ⟨op, reg, mask, operand, rfl⟩ := exists_packWord w
  simp only [ofNat_toNat_div_eq_regField, ofNat_toNat_div_eq_maskField, ofNat_toNat_eq_operandField,
    ofNat_toNat_eq_dataField, toNat_div_mod_eq_regField, regField_packWord, maskField_packWord, operandField_packWord,
    dataField_packWord]
  refine ⟨?read, ?update, matchAndMask_noOperands rfl rfl, matchAndMask_noOperands rfl rfl,
    matchAndMask_noOperands rfl rfl, matchAndMask_noOperands rfl rfl, matchAndMask_noOperands rfl rfl, ?setIchgMa⟩
  case read =>
    rw [decodeCommand_eq_ok_iff, encode, Spelling.command.injEq, packWord_inj, packWord_and_eq_iff]
    change (op &&& BitVec.allOnes 4 = 0#4 ∧ reg &&& 0#4 = 0#4 ∧ mask &&& BitVec.allOnes 8 = 0#8 ∧
      operand &&& BitVec.allOnes 16 = 0#16) ∧ _ ↔ decide (reg.toNat < 11) = true ∧ _
    simp only [BitVec.and_allOnes, BitVec.and_zero, decide_eq_true_eq]
    grind
  case update =>
    rw [decodeCommand_eq_ok_iff, encode, Spelling.command.injEq, packWord_inj, packWord_and_eq_iff]
    change (op &&& BitVec.allOnes 4 = 1#4 ∧ reg &&& 0#4 = 0#4 ∧ mask &&& 0#8 = 0#8 ∧
      operand &&& 0xFF00#16 = 0#16) ∧ _ ↔ decide (reg.toNat < 8) = true ∧ _
    simp only [BitVec.and_allOnes, BitVec.and_zero, and_upper_byte_eq_zero_iff, setWidth_setWidth_eq_self_iff,
      decide_eq_true_eq]
    grind
  case setIchgMa =>
    rw [decodeCommand_eq_ok_iff, encode, Spelling.command.injEq, packWord_inj, packWord_and_eq_iff]
    change (op &&& BitVec.allOnes 4 = 7#4 ∧ reg &&& BitVec.allOnes 4 = 0#4 ∧ mask &&& BitVec.allOnes 8 = 0#8 ∧
      operand &&& 0#16 = 0#16) ↔ true = true ∧ _
    simp only [BitVec.and_allOnes, BitVec.and_zero]
    grind

/-! ## The tables, row by row -/

/-- Settles O5, by running the decoder on the words. -/
theorem referenceWordsDecode : Obligations.ReferenceWordsDecode := by
  unfold Obligations.ReferenceWordsDecode
  decide

/-- Settles O6: the twelve rows by running the select, and the reserved selects one by one. -/
theorem functionSelectTable : Obligations.FunctionSelectTable := by
  unfold Obligations.FunctionSelectTable
  decide

end Sys2Proof
end

section
/-! PROOFS. The assembler (30_encoding.md R94 to R96): which literals fit, what an emitted word is, and that `SETF` is the
field-set mutator. -/

namespace Sys2Proof.Machine

/-! ## Literals (R94) -/

theorem fitLiteral_isSome (n v : Nat) : (fitLiteral n v).isSome = decide (v < 2 ^ n) := by
  unfold fitLiteral
  split_ifs with h <;> simp [h]

theorem fitLiteral_toNat {n : Nat} (b : BitVec n) : fitLiteral n b.toNat = some b := by
  rw [fitLiteral, if_pos b.isLt, BitVec.ofNat_toNat, BitVec.setWidth_eq]

/-- A register symbol fits the `REG` field (R95). -/
theorem fitLiteral_regNameNat (r : RegName) : fitLiteral 4 (regNameNat r) = some ((regNameAddr r).setWidth 4) := by
  cases r <;> rfl

/-- An UPDATE line emits a word when each of its three literals fits. -/
theorem emitCommand_update_isSome (reg mask data : Nat) :
    (emitCommand (.update reg mask data)).isSome = decide (reg < 16 ∧ mask < 256 ∧ data < 256) := by
  have hfit : (emitCommand (.update reg mask data)).isSome =
      ((fitLiteral 4 reg).isSome && ((fitLiteral 8 mask).isSome && (fitLiteral 8 data).isSome)) := by
    rw [emitCommand]
    cases fitLiteral 4 reg <;> cases fitLiteral 8 mask <;> cases fitLiteral 8 data <;> rfl
  rw [hfit]
  simp only [fitLiteral_isSome, Nat.reducePow, Bool.decide_and]

/-- Settles O12, by which literals fit their fields. -/
theorem literalsMustFit : Obligations.LiteralsMustFit := by
  refine ⟨?read, emitCommand_update_isSome, ?setIchgMa, ?writeb⟩
  case read =>
    intro reg
    exact Option.isSome_map.trans (fitLiteral_isSome 4 reg)
  case setIchgMa =>
    intro ma
    exact Option.isSome_map.trans (fitLiteral_isSome 16 ma)
  case writeb =>
    intro reg byte
    change (emitCommand (.update reg 0xFF byte)).isSome = _
    simp only [emitCommand_update_isSome, Nat.reduceLT, true_and]

/-- Settles O14: `expandLine` writes the three pseudo-instructions out so (R96). -/
theorem pseudoInstructionsExpand : Obligations.PseudoInstructionsExpand :=
  ⟨fun _ _ => rfl, fun _ => rfl, rfl⟩

/-! ## Emitted words (R94, R87, R88) -/

/-- An emitted word is the encoding of an instruction, perhaps of one whose register the decoder refuses. -/
theorem exists_encode_of_emitCommand {l : AsmLine} {w : CmdWord} (h : emitCommand l = some w) :
    ∃ i, encode i = .command w := by
  cases l with
  | read reg =>
    obtain ⟨r, -, rfl⟩ := Option.map_eq_some_iff.1 h
    exact ⟨.read r, rfl⟩
  | update reg mask data =>
    rw [emitCommand] at h
    split at h
    · next r m d _ _ _ => cases h; exact ⟨.update r m d, rfl⟩
    · cases h
  | setIchgMa ma =>
    obtain ⟨m, -, rfl⟩ := Option.map_eq_some_iff.1 h
    exact ⟨.setIchgMa m, rfl⟩
  | disableWatchdog => cases h; exact ⟨.disableWatchdog, rfl⟩
  | resetWatchdog => cases h; exact ⟨.resetWatchdog, rfl⟩
  | status => cases h; exact ⟨.status, rfl⟩
  | newFault => cases h; exact ⟨.newFault, rfl⟩
  | getIchgMa => cases h; exact ⟨.getIchgMa, rfl⟩
  | setf | writeb | touch | readId => cases h

/-- The decoder refuses the encoding of an instruction only for its register. -/
theorem refusal_of_encode {i : Instr} {w : CmdWord} {c : RefusalCode} (he : encode i = .command w)
    (hd : decodeCommand w = .error c) : c = .REG ∨ c = .RO := by
  by_cases hw : i.wellFormed = true
  · rw [decodeCommand_eq_ok_iff.2 ⟨hw, he⟩] at hd
    cases hd
  cases i with
  | read reg =>
    cases he
    rw [decodeCommand_read] at hd
    split_ifs at hd with hsbz hreg
    · simp at hsbz
    · cases hd; exact .inl rfl
  | update reg mask data =>
    cases he
    rw [decodeCommand_update] at hd
    split_ifs at hd with hsbz hreg hro
    · exact absurd (toNat_setWidth_byte_lt data) (Nat.not_lt.2 hsbz)
    · cases hd; exact .inl rfl
    · cases hd; exact .inr rfl
  | _ => exact absurd rfl hw

/-- Settles O15: an emitted word encodes an instruction. -/
theorem assembledWordsAreWellFormatted : Obligations.AssembledWordsAreWellFormatted := by
  intro l w h
  obtain ⟨l', -, h'⟩ := Option.bind_eq_some_iff.1 h
  obtain ⟨i, hi⟩ := exists_encode_of_emitCommand h'
  have hrefusal := fun c => refusal_of_encode (c := c) hi
  exact ⟨fun hc => by simpa using hrefusal _ hc, fun hc => by simpa using hrefusal _ hc⟩

/-! ## Lines of text (R95, R98) -/

/-- Settles O10, by running the assembler on the lines. -/
theorem referenceLinesAssemble : Obligations.ReferenceLinesAssemble := by
  unfold Obligations.ReferenceLinesAssemble
  decide

/-- Settles O11, by running the assembler on the eleven lines. -/
theorem registerSymbolsAssemble : Obligations.RegisterSymbolsAssemble := by
  unfold Obligations.RegisterSymbolsAssemble
  decide

/-! ## `SETF` (R96, R137) -/

/-- A masked write takes the bits of the data under the mask and keeps the others (R151). -/
theorem maskedWrite_getLsbD {mask data b : Byte} {i : Nat} (hi : i < 8) :
    (maskedWrite mask data b).getLsbD i = if mask.getLsbD i then data.getLsbD i else b.getLsbD i := by
  simp only [maskedWrite, BitVec.getLsbD_or, BitVec.getLsbD_and, BitVec.getLsbD_not, hi]
  cases mask.getLsbD i <;> simp

/-! Setting a field of a decoded byte writes its value in its place and keeps the other bits (R134), bit by bit for each
field of each layout. -/

theorem encPoc_apply_decPoc (g : PocSet) (b : Byte) :
    encPoc (g.apply (decPoc b)) = maskedWrite g.mask (g.code <<< g.lo) b := by
  apply BitVec.eq_of_getLsbD_eq
  intro i hi
  rw [encPoc_getLsbD, maskedWrite_getLsbD hi]
  cases g <;> simp only [PocSet.apply, PocSet.mask, PocSet.code, PocSet.lo, decPoc, encBoostLim_decBoostLim]
  all_goals interval_cases i <;> simp [bit]

theorem encCcc_apply_decCcc (g : CccSet) (b : Byte) :
    encCcc (g.apply (decCcc b)) = maskedWrite g.mask (g.code <<< g.lo) b := by
  apply BitVec.eq_of_getLsbD_eq
  intro i hi
  rw [encCcc_getLsbD, maskedWrite_getLsbD hi]
  cases g <;> simp only [CccSet.apply, CccSet.mask, CccSet.code, CccSet.lo, decCcc]
  all_goals interval_cases i <;> simp [bit]

theorem encTtc_apply_decTtc (g : TtcSet) (b : Byte) :
    encTtc (g.apply (decTtc b)) = maskedWrite g.mask (g.code <<< g.lo) b := by
  apply BitVec.eq_of_getLsbD_eq
  intro i hi
  rw [encTtc_getLsbD, maskedWrite_getLsbD hi]
  cases g <;> simp only [TtcSet.apply, TtcSet.mask, TtcSet.code, TtcSet.lo, decTtc, encChgTimer_decChgTimer,
    encWatchdog_decWatchdog]
  all_goals interval_cases i <;> simp [bit]

theorem encSs_apply_decSs (g : SsSet) (b : Byte) :
    encSs (g.apply (decSs b)) = maskedWrite g.mask (g.code <<< g.lo) b := by
  apply BitVec.eq_of_getLsbD_eq
  intro i hi
  rw [encSs_getLsbD, maskedWrite_getLsbD hi]
  cases g <;> simp only [SsSet.apply, SsSet.mask, SsSet.code, SsSet.lo, decSs, encChrg_decChrg, encVbus_decVbus]
  all_goals interval_cases i <;> simp [bit]

theorem encNf_apply_decNf (g : NfSet) (b : Byte) :
    encNf (g.apply (decNf b)) = maskedWrite g.mask (g.code <<< g.lo) b := by
  apply BitVec.eq_of_getLsbD_eq
  intro i hi
  rw [encNf_getLsbD, maskedWrite_getLsbD hi]
  cases g <;> simp only [NfSet.apply, NfSet.mask, NfSet.code, NfSet.lo, decNf, encChrgFault_decChrgFault]
  all_goals interval_cases i <;> simp [bit]

/-- The field-set mutator is a masked write of the value in its place, in every layout (R134). -/
theorem setField_eq_maskedWrite (f : FieldSet) (b : Byte) : setField f b = maskedWrite f.mask (f.code <<< f.lo) b := by
  cases f with
  | poc g => exact encPoc_apply_decPoc g b
  | ccc g => exact encCcc_apply_decCcc g b
  | ttc g => exact encTtc_apply_decTtc g b
  | ss g => exact encSs_apply_decSs g b
  | nf g => exact encNf_apply_decNf g b

theorem expandLine_setf (f : FieldSet) :
    expandLine (.setf f) =
      if f.reg = .POC ∨ f.reg = .CCC ∨ f.reg = .TTC then some (.update (regNameNat f.reg) f.mask.toNat f.data.toNat)
      else none := by
  cases f <;> rfl

/-- Settles O13: `SETF` emits the UPDATE of the field's mask and placed value. -/
theorem setfAssemblesFieldSet : Obligations.SetfAssemblesFieldSet := by
  intro f
  rw [emitLine, expandLine_setf]
  split_ifs with hreg
  · refine ⟨packWord 1#4 ((regNameAddr f.reg).setWidth 4) f.mask (f.data.setWidth 16), f.mask, f.data, ?emits,
      decodeCommand_eq_ok_iff.2 ⟨?wellFormed, rfl⟩, fun b => ?mutator⟩
    case emits => simp only [Option.bind_some, emitCommand, fitLiteral_regNameNat, fitLiteral_toNat]
    case wellFormed => rcases hreg with h | h | h <;> rw [h] <;> rfl
    case mutator => rw [setField_eq_maskedWrite, maskedWrite, FieldSet.data, BitVec.and_assoc, BitVec.and_self]
  · rfl

end Sys2Proof.Machine
end

section
/-! PROOFS. The named commands against READ and UPDATE (30_encoding.md R97). -/

namespace Sys2Proof.Machine

/-- Two RMW commands with the same target that write the same byte are the same command (R155). -/
theorem exec_rmw_congr {i j : Instr} (hwi : i.wellFormed = true) (hri : isRmw i = true) (hwj : j.wellFormed = true)
    (hrj : isRmw j = true) (ht : target i = target j) (hb : ∀ b, writtenByte i b = writtenByte j b) (s : State) :
    exec i s = exec j s := by
  rw [exec_rmw hwi hri, exec_rmw hwj hrj, ht, funext hb]

/-- Two read sequences that differ in their views differ in the view of the response alone (R153, R165). -/
theorem dropView_readSeq_congr (a : RegAddr) (g : Byte → Half) (v v' : Byte → Option RespView) (s : State) :
    dropView (readSeq a g v s) = dropView (readSeq a g v' s) := by
  cases hp : s.phase with
  | idle => rw [readSeq_idle a g v hp, readSeq_idle a g v' hp]
  | rdWait =>
    cases ht : takeReadAnswer s with
    | none => simp only [readSeq, hp, ht]
    | some answer =>
      obtain ⟨r, s1⟩ := answer
      obtain ⟨rest, hs, -⟩ := takeReadAnswer_eq_some ht
      cases r with
      | ok b => rw [readSeq_ok a g v hp hs, readSeq_ok a g v' hp hs]; rfl
      | err e => rw [readSeq_err a g v hp hs, readSeq_err a g v' hp hs]
  | wrWait => simp only [readSeq, hp]

/-- Two read commands with the same target and the same DATA differ in the view alone (R155). -/
theorem dropView_exec_congr {i j : Instr} (hwi : i.wellFormed = true) (hci : isCommand i = true) (hri : isRmw i = false)
    (hwj : j.wellFormed = true) (hcj : isCommand j = true) (hrj : isRmw j = false) (ht : target i = target j)
    (hd : resultData i = resultData j) (s : State) : dropView (exec i s) = dropView (exec j s) := by
  rw [exec_read hwi hci hri, exec_read hwj hcj hrj, ht, hd]
  exact dropView_readSeq_congr _ _ _ _ s

/-- Settles O33. Each RMW command writes what setting its field gives, which is the masked write of the UPDATE; each read
command agrees with the READ on target and DATA. -/
theorem namedCommandsAreUpdates : Obligations.NamedCommandsAreUpdates := by
  refine ⟨exec_rmw_congr rfl rfl rfl rfl rfl fun b => ?disable, exec_rmw_congr rfl rfl rfl rfl rfl fun b => ?reset,
    fun m => exec_rmw_congr rfl rfl rfl rfl rfl fun b => ?setIchgMa, dropView_exec_congr rfl rfl rfl rfl rfl rfl rfl rfl,
    dropView_exec_congr rfl rfl rfl rfl rfl rfl rfl rfl⟩
  case disable => exact (setField_en_timer_false b).symm.trans (setField_eq_maskedWrite _ b)
  case reset => exact (setField_watchdog_reset_true b).symm.trans (setField_eq_maskedWrite _ b)
  case setIchgMa =>
    have hichg := setField_ichg (maToIchg m) b
    rw [maToIchg_setWidth] at hichg
    exact hichg.symm.trans (setField_eq_maskedWrite _ b)

end Sys2Proof.Machine
end

section
/-! PROOFS. CODEC (41_codec.md): the enumerations, the register decoders and encoders as arithmetic on the byte's number,
the round trips and the field mutator bit by bit, the unit conversions, and the reserved selects. -/

namespace Sys2Proof.Machine

/-! ## Enumerations (R111 to R117) -/

/-- Settles O16: the tables by evaluation, the bijections from the inverse laws. -/
theorem enumerationsAreBijections : Obligations.EnumerationsAreBijections := by
  refine ⟨by decide, by decide, by decide, by decide, by decide, by decide, ?boostLim, ?chgTimer, ?watchdog, ?vbus, ?chrg,
    ?chrgFault⟩
  case boostLim => exact closedBijection_of_inverses encBoostLim_decBoostLim decBoostLim_encBoostLim
  case chgTimer => exact closedBijection_of_inverses encChgTimer_decChgTimer decChgTimer_encChgTimer
  case watchdog => exact closedBijection_of_inverses encWatchdog_decWatchdog decWatchdog_encWatchdog
  case vbus => exact closedBijection_of_inverses encVbus_decVbus decVbus_encVbus
  case chrg => exact closedBijection_of_inverses encChrg_decChrg decChrg_encChrg
  case chrgFault => exact closedBijection_of_inverses encChrgFault_decChrgFault decChrgFault_encChrgFault

/-- A function of one bit is a choice by the low bit of the number it is given as. -/
theorem apply_ofNat_one {α : Type} (f : BitVec 1 → α) (n : Nat) : f (BitVec.ofNat 1 n) = pick2 n (f 0#1) (f 1#1) := by
  have hlow : BitVec.ofNat 1 n = BitVec.ofNat 1 (n % 2) := BitVec.eq_of_toNat_eq (by simp)
  have hlt : n % 2 < 2 := Nat.mod_lt n (by decide)
  rw [hlow, pick2]
  interval_cases n % 2 <;> rfl

/-- A function of two bits is a choice by the low two bits of the number they are given as. -/
theorem apply_ofNat_two {α : Type} (f : BitVec 2 → α) (n : Nat) :
    f (BitVec.ofNat 2 n) = pick4 n (f 0#2) (f 1#2) (f 2#2) (f 3#2) := by
  have hlow : BitVec.ofNat 2 n = BitVec.ofNat 2 (n % 4) := BitVec.eq_of_toNat_eq (by simp)
  have hlt : n % 4 < 4 := Nat.mod_lt n (by decide)
  rw [hlow, pick4]
  interval_cases n % 4 <;> rfl

theorem decBoostLim_ofNat (n : Nat) : decBoostLim (BitVec.ofNat 1 n) = pick2 n .A1_0 .A1_5 :=
  apply_ofNat_one decBoostLim n

theorem decChgTimer_ofNat (n : Nat) : decChgTimer (BitVec.ofNat 2 n) = pick4 n .H5 .H8 .H12 .H20 :=
  apply_ofNat_two decChgTimer n

theorem decWatchdog_ofNat (n : Nat) : decWatchdog (BitVec.ofNat 2 n) = pick4 n .Disabled .S40 .S80 .S160 :=
  apply_ofNat_two decWatchdog n

theorem decVbus_ofNat (n : Nat) : decVbus (BitVec.ofNat 2 n) = pick4 n .Unknown .UsbHost .AdapterPort .Otg :=
  apply_ofNat_two decVbus n

theorem decChrg_ofNat (n : Nat) :
    decChrg (BitVec.ofNat 2 n) = pick4 n .NotCharging .PreCharge .FastCharging .ChargeTermination :=
  apply_ofNat_two decChrg n

theorem decChrgFault_ofNat (n : Nat) :
    decChrgFault (BitVec.ofNat 2 n) = pick4 n .Normal .InputFault .ThermalShutdown .ChargeTimerExpiration :=
  apply_ofNat_two decChrgFault n

/-! ## Register decoders (R118, R120, R122, R126, R128) -/

/-- Settles O17: a member is a bit of the byte's number, or the low bits of that number divided by the weight of the
member's lowest bit. -/
theorem codecDecodesFields : Obligations.CodecDecodesFields := by
  intro s n hn
  have hbit (i : Nat) : s.codecIn.bin.getLsbD i = n.testBit i := by rw [hn, BitVec.testBit_toNat]
  have hfield (k w : Nat) : s.codecIn.bin.extractLsb' k w = BitVec.ofNat w (n / 2 ^ k) := by
    rw [BitVec.extractLsb', hn, Nat.shiftRight_eq_div_pow]
  refine ⟨?poc, ?ccc, ?ttc, ?ss, ?nf⟩
  case poc =>
    simp only [exec, execDecPoc, presentCodec, decPoc, hbit, hfield, decBoostLim_ofNat, Nat.reducePow, Nat.div_one]
  case ccc => simp only [exec, execDecCcc, presentCodec, decCcc, hbit, hfield, Nat.reducePow]
  case ttc =>
    simp only [exec, execDecTtc, presentCodec, decTtc, hbit, hfield, decChgTimer_ofNat, decWatchdog_ofNat, Nat.reducePow,
      Nat.div_one]
  case ss => simp only [exec, execDecSs, presentCodec, decSs, hbit, hfield, decChrg_ofNat, decVbus_ofNat, Nat.reducePow]
  case nf => simp only [exec, execDecNf, presentCodec, decNf, hbit, hfield, decChrgFault_ofNat, Nat.reducePow]

/-! ## Register encoders (R119, R121, R123, R127, R129)

An encoded byte is a concatenation, so as a number the sum of its parts, each times the weight of its lowest bit. -/

theorem bit_toNat (x : Bool) : (bit x).toNat = x.toNat := BitVec.toNat_ofBool x

theorem toNat_append_eq_add {v w : Nat} (x : BitVec v) (y : BitVec w) : (x ++ y).toNat = 2 ^ w * x.toNat + y.toNat := by
  rw [BitVec.toNat_append, ← Nat.shiftLeft_add_eq_or_of_lt y.isLt, Nat.shiftLeft_eq, Nat.mul_comm]

theorem encPoc_toNat (v : PocView) : (encPoc v).toNat =
    128 * v.register_reset.toNat + 64 * v.watchdog_reset.toNat + 32 * v.en_otg.toNat + 16 * v.en_charge.toNat
      + 2 * v.sys_min.toNat + (encBoostLim v.boost_current_limit).toNat := by
  simp only [encPoc, toNat_append_eq_add, bit_toNat]
  omega

theorem encCcc_toNat (v : CccView) : (encCcc v).toNat =
    128 * v.reserved7.toNat + 4 * v.ichg.toNat + 2 * v.bcold.toNat + v.force_20pct.toNat := by
  simp only [encCcc, toNat_append_eq_add, bit_toNat]
  omega

theorem encTtc_toNat (v : TtcView) : (encTtc v).toNat =
    128 * v.en_term.toNat + 64 * v.reserved6.toNat + 16 * (encWatchdog v.watchdog).toNat + 8 * v.en_timer.toNat
      + 2 * (encChgTimer v.charge_timer).toNat + v.reserved0.toNat := by
  simp only [encTtc, toNat_append_eq_add, bit_toNat]
  omega

theorem encSs_toNat (v : SsView) : (encSs v).toNat =
    64 * (encVbus v.vbus).toNat + 16 * (encChrg v.chrg).toNat + 8 * v.dpm.toNat + 4 * v.pg.toNat + 2 * v.therm.toNat
      + v.vsys.toNat := by
  simp only [encSs, toNat_append_eq_add, bit_toNat]
  omega

theorem encNf_toNat (v : NfView) : (encNf v).toNat =
    128 * v.watchdog_expired.toNat + 64 * v.otg_fault.toNat + 16 * (encChrgFault v.chrg_fault).toNat
      + 8 * v.bat_fault.toNat + 4 * v.reserved2.toNat + 2 * v.ntc_cold.toNat + v.ntc_hot.toNat := by
  simp only [encNf, toNat_append_eq_add, bit_toNat]
  omega

/-- Settles O18: the byte presented is the number it holds. -/
theorem codecEncodesFields : Obligations.CodecEncodesFields := by
  intro s
  refine ⟨?poc, ?ccc, ?ttc, ?ss, ?nf⟩ <;> rintro v rfl
  case poc => rw [← encPoc_toNat, BitVec.ofNat_toNat, BitVec.setWidth_eq]; rfl
  case ccc => rw [← encCcc_toNat, BitVec.ofNat_toNat, BitVec.setWidth_eq]; rfl
  case ttc => rw [← encTtc_toNat, BitVec.ofNat_toNat, BitVec.setWidth_eq]; rfl
  case ss => rw [← encSs_toNat, BitVec.ofNat_toNat, BitVec.setWidth_eq]; rfl
  case nf => rw [← encNf_toNat, BitVec.ofNat_toNat, BitVec.setWidth_eq]; rfl

/-! ## Encoding a decoded byte (R132) -/

theorem encPoc_decPoc (b : Byte) : encPoc (decPoc b) = b := by
  apply BitVec.eq_of_getLsbD_eq
  intro i hi
  rw [encPoc_getLsbD]
  interval_cases i <;> simp [decPoc, bit]

theorem encCcc_decCcc (b : Byte) : encCcc (decCcc b) = b := by
  apply BitVec.eq_of_getLsbD_eq
  intro i hi
  rw [encCcc_getLsbD]
  interval_cases i <;> simp [decCcc]

theorem encTtc_decTtc (b : Byte) : encTtc (decTtc b) = b := by
  apply BitVec.eq_of_getLsbD_eq
  intro i hi
  rw [encTtc_getLsbD]
  interval_cases i <;> simp [decTtc, bit]

theorem encSs_decSs (b : Byte) : encSs (decSs b) = b := by
  apply BitVec.eq_of_getLsbD_eq
  intro i hi
  rw [encSs_getLsbD]
  interval_cases i <;> simp [decSs]

theorem encNf_decNf (b : Byte) : encNf (decNf b) = b := by
  apply BitVec.eq_of_getLsbD_eq
  intro i hi
  rw [encNf_getLsbD]
  interval_cases i <;> simp [decNf, bit]

/-- Settles O20, layout by layout. -/
theorem byteRoundTrip : Obligations.ByteRoundTrip := fun b =>
  ⟨encPoc_decPoc b, encCcc_decCcc b, encTtc_decTtc b, encSs_decSs b, encNf_decNf b⟩

/-! ## Decoding an encoded view (R133)

A member of more than one bit, or held as a code, is read back bit by bit; a Boolean member is one bit of the byte. -/

theorem extractLsb'_eq_of_getLsbD {b : Byte} {k w : Nat} {c : BitVec w}
    (h : ∀ i : Fin w, b.getLsbD (k + i) = c.getLsbD i) : b.extractLsb' k w = c := by
  apply BitVec.eq_of_getLsbD_eq
  intro i hi
  rw [BitVec.getLsbD_extractLsb', h ⟨i, hi⟩, decide_eq_true hi, Bool.true_and]

theorem decPoc_encPoc (v : PocView) : decPoc (encPoc v) = v := by
  have hboost : (encPoc v).extractLsb' 0 1 = encBoostLim v.boost_current_limit :=
    extractLsb'_eq_of_getLsbD fun | 0 => encPoc_getLsbD v _
  have hsysMin : (encPoc v).extractLsb' 1 3 = v.sys_min :=
    extractLsb'_eq_of_getLsbD fun | 0 | 1 | 2 => encPoc_getLsbD v _
  simp [decPoc, hboost, hsysMin, encPoc_getLsbD, bit, -BitVec.getLsbD_eq_getElem]

theorem decCcc_encCcc (v : CccView) : decCcc (encCcc v) = v := by
  have hichg : (encCcc v).extractLsb' 2 5 = v.ichg :=
    extractLsb'_eq_of_getLsbD fun | 0 | 1 | 2 | 3 | 4 => encCcc_getLsbD v _
  have hreserved7 : (encCcc v).extractLsb' 7 1 = v.reserved7 :=
    extractLsb'_eq_of_getLsbD fun | 0 => encCcc_getLsbD v _
  simp [decCcc, hichg, hreserved7, encCcc_getLsbD, -BitVec.getLsbD_eq_getElem]

theorem decTtc_encTtc (v : TtcView) : decTtc (encTtc v) = v := by
  have hreserved0 : (encTtc v).extractLsb' 0 1 = v.reserved0 :=
    extractLsb'_eq_of_getLsbD fun | 0 => encTtc_getLsbD v _
  have htimer : (encTtc v).extractLsb' 1 2 = encChgTimer v.charge_timer :=
    extractLsb'_eq_of_getLsbD fun | 0 | 1 => encTtc_getLsbD v _
  have hwatchdog : (encTtc v).extractLsb' 4 2 = encWatchdog v.watchdog :=
    extractLsb'_eq_of_getLsbD fun | 0 | 1 => encTtc_getLsbD v _
  have hreserved6 : (encTtc v).extractLsb' 6 1 = v.reserved6 :=
    extractLsb'_eq_of_getLsbD fun | 0 => encTtc_getLsbD v _
  simp [decTtc, hreserved0, htimer, hwatchdog, hreserved6, encTtc_getLsbD, bit, -BitVec.getLsbD_eq_getElem]

theorem decSs_encSs (v : SsView) : decSs (encSs v) = v := by
  have hchrg : (encSs v).extractLsb' 4 2 = encChrg v.chrg :=
    extractLsb'_eq_of_getLsbD fun | 0 | 1 => encSs_getLsbD v _
  have hvbus : (encSs v).extractLsb' 6 2 = encVbus v.vbus :=
    extractLsb'_eq_of_getLsbD fun | 0 | 1 => encSs_getLsbD v _
  simp [decSs, hchrg, hvbus, encSs_getLsbD, -BitVec.getLsbD_eq_getElem]

theorem decNf_encNf (v : NfView) : decNf (encNf v) = v := by
  have hreserved2 : (encNf v).extractLsb' 2 1 = v.reserved2 :=
    extractLsb'_eq_of_getLsbD fun | 0 => encNf_getLsbD v _
  have hfault : (encNf v).extractLsb' 4 2 = encChrgFault v.chrg_fault :=
    extractLsb'_eq_of_getLsbD fun | 0 | 1 => encNf_getLsbD v _
  simp [decNf, hreserved2, hfault, encNf_getLsbD, bit, -BitVec.getLsbD_eq_getElem]

/-- Settles O21, layout by layout. -/
theorem viewRoundTrip : Obligations.ViewRoundTrip :=
  ⟨decPoc_encPoc, decCcc_encCcc, decTtc_encTtc, decSs_encSs, decNf_encNf⟩

/-! ## The field mutator (R134) -/

/-- Outside its mask a masked write keeps the byte (R151). -/
theorem maskedWrite_and_not_mask (mask data b : Byte) : maskedWrite mask data b &&& ~~~mask = b &&& ~~~mask := by
  apply BitVec.eq_of_getLsbD_eq
  intro i hi
  rw [BitVec.getLsbD_and, BitVec.getLsbD_and, BitVec.getLsbD_not, maskedWrite_getLsbD hi]
  cases mask.getLsbD i <;> simp

/-- Settles O22: the mutator is a masked write. -/
theorem fieldIsolation : Obligations.FieldIsolation := by
  intro f b
  rw [setField_eq_maskedWrite]
  exact ⟨rfl, maskedWrite_and_not_mask _ _ b⟩

/-! ## Unit conversion (R130, R131, R135) -/

theorem clampedCode_le (m : Nat) : clampedCode m ≤ 24 := by
  rw [clampedCode]
  omega

theorem clampedCode_mono {m n : Nat} (h : m ≤ n) : clampedCode m ≤ clampedCode n := by
  simp only [clampedCode]
  omega

/-- The code of a code's milliamps: saturated, else unchanged. -/
theorem clampedCode_milliamps (k : Nat) : clampedCode (k * 64 + 512) = min k 24 := by
  rw [clampedCode]
  omega

/-- The division truncates, so the milliamps of a code are not above those it came from, or the lower clamp. -/
theorem milliamps_clampedCode_le (m : Nat) : clampedCode m * 64 + 512 ≤ max m 512 := by
  rw [clampedCode]
  omega

/-- Settles O19, by the closed forms of the two converters. -/
theorem codecConvertsUnits : Obligations.CodecConvertsUnits := by
  refine ⟨fun s => ⟨ichgToMa s.codecIn.iin, rfl, ichgToMa_toNat _, ?ma_le⟩,
    fun s => ⟨maToIchg s.codecIn.min, rfl, maToIchg_toNat _, ?code_le⟩⟩
  case ma_le =>
    have := s.codecIn.iin.isLt
    rw [ichgToMa_toNat]
    omega
  case code_le => exact (maToIchg_toNat _).trans_le (clampedCode_le _)

/-- Settles O23, by the laws of the clamped code. -/
theorem conversionLaws : Obligations.ConversionLaws := by
  refine ⟨fun k hk => BitVec.eq_of_toNat_eq ?identity, fun c => ?saturates, fun m n h => ?monotone, fun m => ?roundsDown⟩
  case identity =>
    have hma : (BitVec.ofNat 16 (512 + 64 * k)).toNat = k * 64 + 512 := by rw [BitVec.toNat_ofNat]; omega
    rw [ichgToMa_toNat, maToIchg_toNat, hma, clampedCode_milliamps, min_eq_left hk]
  case saturates => rw [maToIchg_toNat, ichgToMa_toNat, clampedCode_milliamps]
  case monotone =>
    rw [maToIchg_toNat, maToIchg_toNat]
    exact clampedCode_mono h
  case roundsDown =>
    rw [ichgToMa_toNat, maToIchg_toNat]
    exact milliamps_clampedCode_le _

/-! ## Reserved selects (R136) -/

/-- Settles O7: the decoder rejects the select, and the step is the refusal that names it. -/
theorem reservedSelectIsRefused : Obligations.ReservedSelectIsRefused := by
  intro s fn ins rest hfn hscript
  obtain ⟨_, _, _, _, _, _, _, _, _, _, _, _, hreserved⟩ := functionSelectTable
  exact step_codec_reserved hscript (hreserved fn hfn)

end Sys2Proof.Machine
end

section
/-! PROOFS. The SEQ commands (42_sequencer.md): what a step runs, the words each command refuses, the two sequences at each
event and in the states they do not have, and whole runs. The commands are the two sequences on R155's closed forms
(`exec_read`, `exec_rmw`), and a run is the moves of its steps (`Move.step_eq`). -/

namespace Sys2Proof.Machine

/-! ## Acceptance (R154, R155) -/

/-- Settles O8, by the equation of the step for each event. -/
theorem stepRunsDecodedInstruction : Obligations.StepRunsDecodedInstruction :=
  ⟨fun _ _ _ _ hp hs hd => step_accept hs hp hd,
    fun _ _ _ _ _ hp hs hcmd hd => (step_readAnswer hs hp).trans (resume_ok hcmd hd),
    fun _ _ _ _ _ hp hs hcmd hd => (step_writeAnswer hs hp).trans (resume_ok hcmd hd),
    fun _ _ _ _ _ hs hd => step_codec hs hd⟩

/-- Settles O39, by the two moves of an acceptance. -/
theorem acceptanceStartsOrRefuses : Obligations.AcceptanceStartsOrRefuses := by
  intro s w rest hp hs
  refine ⟨fun i hd => ?starts, fun c hd => ?refuses⟩
  case starts => exact Move.step_eq (m := .start w i rest) ⟨hs, hp, hd⟩
  case refuses => exact ⟨_, _, Move.step_eq (m := .refuse w c rest) ⟨hs, hp, hd⟩, rfl, rfl, rfl, rfl⟩

/-! ## Refused words (R90, R192) -/

/-- A refused word ends with its code, and the word it latched is gone again (R192). -/
theorem wordRefused_of_decode {w : CmdWord} {c : RefusalCode} (hd : decodeCommand w = .error c) :
    WordRefused w (refusalData c) :=
  fun _ _ hp hs => step_accept_refused hs hp hd

theorem opField_eq_of_div {w : CmdWord} {op : BitVec 4} (h : w.toNat / 2 ^ 28 = op.toNat) : opField w = op := by
  rw [opField, BitVec.extractLsb', Nat.shiftRight_eq_div_pow, h, BitVec.ofNat_toNat, BitVec.setWidth_eq]

/-- A word with a should-be-zero bit set (R87). -/
theorem wordRefused_format {w : CmdWord} {op : BitVec 4} (hop : w.toNat / 2 ^ 28 = op.toNat) (h8 : op.toNat < 8)
    (hsbz : w &&& sbzMask op ≠ 0#32) : WordRefused w 0x0002#16 := by
  obtain rfl := opField_eq_of_div hop
  exact wordRefused_of_decode (c := .FORMAT) (by rw [decodeCommand, if_neg (Nat.not_le.2 h8), if_pos hsbz])

/-- A word of a command without operands, other than the one that spells it (R85). -/
theorem wordRefused_noOperands {w : CmdWord} {op : BitVec 4} (hop : w.toNat / 2 ^ 28 = op.toNat)
    (h : 2 ≤ op.toNat ∧ op.toNat ≤ 6) (hne : w ≠ packWord op 0#4 0#8 0#16) : WordRefused w 0x0002#16 := by
  obtain rfl := opField_eq_of_div hop
  have hfields : regField w ≠ 0#4 ∨ maskField w ≠ 0#8 ∨ operandField w ≠ 0#16 := by
    by_contra! hzero
    obtain ⟨hreg, hmask, hoperand⟩ := hzero
    exact hne (by rw [← hreg, ← hmask, ← hoperand, packWord_fields])
  refine wordRefused_of_decode (c := .FORMAT) ?_
  rw [← packWord_fields w, decodeCommand_noOperands _ _ _ h, if_pos hfields]

/-- A READ or an UPDATE of an index that names no register (R89). -/
theorem wordRefused_reg {w : CmdWord} {op : BitVec 4} (hop : w.toNat / 2 ^ 28 = op.toNat) (h01 : op = 0#4 ∨ op = 1#4)
    (hsbz : w &&& sbzMask op = 0#32) (hreg : 10 < w.toNat / 2 ^ 24 % 16) : WordRefused w 0x0003#16 := by
  rw [toNat_div_mod_eq_regField] at hreg
  have hw := opField_eq_of_div hop
  refine wordRefused_of_decode (c := .REG) ?_
  rcases h01 with rfl | rfl <;> simp [decodeCommand, hw, hsbz, hreg]

/-- An UPDATE of a read-only register (R31, R89). -/
theorem wordRefused_ro {w : CmdWord} (hop : w.toNat / 2 ^ 28 = 1) (hsbz : w &&& sbzMask 1#4 = 0#32)
    (hlo : 8 ≤ w.toNat / 2 ^ 24 % 16) (hhi : w.toNat / 2 ^ 24 % 16 ≤ 10) : WordRefused w 0x0004#16 := by
  rw [toNat_div_mod_eq_regField] at hlo hhi
  have hw : opField w = 1#4 := opField_eq_of_div hop
  exact wordRefused_of_decode (c := .RO) (by simp [decodeCommand, hw, hsbz, hlo, Nat.not_lt.2 hhi])

/-! ## The read commands (R150, R153, R158, R159, R160) -/

/-- A read command at each of its events, with R155's closed forms. -/
theorem runsReadSequence {i : Instr} (hw : i.wellFormed = true) (hc : isCommand i = true) (hr : isRmw i = false) :
    RunsReadSequence i (target i) (resultData i) (resultView i) :=
  ⟨fun _ hp => exec_idle hw hc hp, fun s _ _ hp hs => (exec_read hw hc hr s).trans (readSeq_ok _ _ _ hp hs),
    fun s _ _ hp hs => (exec_read hw hc hr s).trans (readSeq_err _ _ _ hp hs)⟩

/-- Settles O24: READ is the read sequence, and its words are refused FORMAT before REG. -/
theorem readCommand : Obligations.ReadCommand := by
  refine ⟨fun reg hreg => ?runs, fun w hop hsbz => ?format, fun w hop hsbz hreg => ?reg⟩
  case runs => exact runsReadSequence (decide_eq_true (Nat.lt_succ_of_le hreg)) rfl rfl
  case format => exact wordRefused_format (op := 0#4) hop (by decide) hsbz
  case reg => exact wordRefused_reg (op := 0#4) hop (.inl rfl) hsbz (by omega)

/-- Settles O28: STATUS is the read sequence on 0x08, and one word spells it. -/
theorem statusCommand : Obligations.StatusCommand :=
  ⟨runsReadSequence (i := .status) rfl rfl rfl, fun _ hop => wordRefused_noOperands (op := 4#4) hop (by decide)⟩

/-- Settles O29: NEW_FAULT is the read sequence on 0x09, and one word spells it. -/
theorem newFaultCommand : Obligations.NewFaultCommand :=
  ⟨runsReadSequence (i := .newFault) rfl rfl rfl, fun _ hop => wordRefused_noOperands (op := 5#4) hop (by decide)⟩

/-- The `ichg` code of a byte by arithmetic on its number (R33, R160). -/
theorem resultData_getIchgMa (b : Byte) :
    resultData .getIchgMa b = BitVec.ofNat 16 (512 + 64 * (b.toNat / 4 % 32)) := by
  rw [resultData, BitVec.extractLsb'_toNat, Nat.shiftRight_eq_div_pow]

/-- Settles O30: GET_ICHG_MA is the read sequence on 0x02, and one word spells it. -/
theorem getIchgMaCommand : Obligations.GetIchgMaCommand := by
  refine ⟨?runs, fun w hop => wordRefused_noOperands (op := 6#4) hop (by decide)⟩
  case runs =>
    rw [← funext resultData_getIchgMa]
    exact runsReadSequence (i := .getIchgMa) rfl rfl rfl

/-! ## The RMW commands (R151, R152, R156, R157, R161) -/

/-- An RMW command at each of its events, with R155's closed forms. -/
theorem runsRmwSequence {i : Instr} (hw : i.wellFormed = true) (hr : isRmw i = true) :
    RunsRmwSequence i (target i) (writtenByte i) := by
  refine ⟨fun s hp => ?starts, fun s b rest hp hs => ?writes, fun s e rest hp hs => ?readFails,
    fun s v rest hp hn hs => ?ends, fun s v e rest hp hn hs => ?writeFails⟩
  case writes =>
    rw [exec_rmw_read_ok hw hr hp hs]
    simp [issueWrite, setNew, setOld, settleRead, takeEvent, replaceLast]
  all_goals rw [exec_rmw hw hr]
  case starts => exact rmwSeq_idle _ _ hp
  case readFails => exact rmwSeq_read_err _ _ hp hs
  case ends => exact rmwSeq_write_ok _ _ hp hn hs
  case writeFails => exact rmwSeq_write_err _ _ hp hn hs

/-- Settles O25: UPDATE is the RMW sequence, and its words are refused FORMAT before REG before RO. -/
theorem updateCommand : Obligations.UpdateCommand := by
  refine ⟨fun reg mask data hreg => ?runs, fun w hop hsbz => ?format, fun w hop hsbz hreg => ?reg,
    fun _ => wordRefused_ro⟩
  case runs => exact runsRmwSequence (i := .update reg mask data) (decide_eq_true (Nat.lt_succ_of_le hreg)) rfl
  case format => exact wordRefused_format (op := 1#4) hop (by decide) hsbz
  case reg => exact wordRefused_reg (op := 1#4) hop (.inr rfl) hsbz hreg

/-- Settles O26: DISABLE_WATCHDOG is the RMW sequence on 0x05, and one word spells it. -/
theorem disableWatchdogCommand : Obligations.DisableWatchdogCommand :=
  ⟨runsRmwSequence (i := .disableWatchdog) rfl rfl, setField_en_timer_false,
    fun _ hop => wordRefused_noOperands (op := 2#4) hop (by decide)⟩

/-- Settles O27: RESET_WATCHDOG is the RMW sequence on 0x01, and one word spells it. -/
theorem resetWatchdogCommand : Obligations.ResetWatchdogCommand :=
  ⟨runsRmwSequence (i := .resetWatchdog) rfl rfl, setField_watchdog_reset_true,
    fun _ hop => wordRefused_noOperands (op := 3#4) hop (by decide)⟩

/-- The shifted code as a product: a code fits in the six bits that the shift keeps (R161). -/
theorem writtenByte_setIchgMa (m : Half) (b : Byte) :
    writtenByte (.setIchgMa m) b = (b &&& 0x83#8) ||| BitVec.ofNat 8 (4 * clampedCode m.toNat) := by
  have hshift : BitVec.ofNat 8 (clampedCode m.toNat) <<< 2 = BitVec.ofNat 8 (4 * clampedCode m.toNat) := by
    have hcode := clampedCode_le m.toNat
    apply BitVec.eq_of_toNat_eq
    simp only [BitVec.toNat_shiftLeft, BitVec.toNat_ofNat, Nat.shiftLeft_eq]
    omega
  rw [writtenByte, hshift]

/-- Settles O31: SET_ICHG_MA is the RMW sequence on 0x02, for every operand. -/
theorem setIchgMaCommand : Obligations.SetIchgMaCommand := by
  refine ⟨fun m => ?runs, fun w hop hsbz => ?format⟩
  case runs =>
    have hrun := runsRmwSequence (i := .setIchgMa m) rfl rfl
    rwa [funext (writtenByte_setIchgMa m)] at hrun
  case format => exact wordRefused_format (op := 7#4) hop (by decide) hsbz

/-! ## What an RMW command writes (R163) -/

/-- The mutator of SET_ICHG_MA in closed form (R161). -/
theorem setField_ichg_maToIchg (m : Half) (b : Byte) :
    setField (.ccc (.ichg (maToIchg m))) b = writtenByte (.setIchgMa m) b := by
  rw [setField_ichg, maToIchg_setWidth]
  rfl

/-- Every RMW command writes the byte it read with data in the place of its own bits (R96, R97, R151). -/
theorem writtenByte_eq_maskedWrite {i : Instr} (hr : isRmw i = true) :
    ∃ data, ∀ b, writtenByte i b = maskedWrite (changedMask i) data b := by
  cases i with
  | update reg mask data => exact ⟨data, fun b => rfl⟩
  | disableWatchdog => exact ⟨_, fun b => (setField_en_timer_false b).symm.trans (setField_eq_maskedWrite _ b)⟩
  | resetWatchdog => exact ⟨_, fun b => (setField_watchdog_reset_true b).symm.trans (setField_eq_maskedWrite _ b)⟩
  | setIchgMa m => exact ⟨_, fun b => (setField_ichg_maToIchg m b).symm.trans (setField_eq_maskedWrite _ b)⟩
  | _ => cases hr

/-- Settles O36: the byte written is a masked write of the byte read. -/
theorem writeChangesOnlyTheMask : Obligations.WriteChangesOnlyTheMask := by
  intro s i b rest hw hr hp hs
  refine ⟨_, writtenByte i b, exec_rmw_read_ok hw hr hp hs, rfl, rfl, ?pending, ?unchanged⟩
  case pending => exact List.getLast?_concat
  case unchanged =>
    obtain ⟨data, hdata⟩ := writtenByte_eq_maskedWrite hr
    rw [hdata, maskedWrite_and_not_mask]

/-! ## Commands outside their own events (R196, U12) -/

theorem takeReadAnswer_eq_none {s : State} (h : ∀ r rest, s.script ≠ .readAnswer r :: rest) : takeReadAnswer s = none := by
  cases ht : takeReadAnswer s with
  | none => rfl
  | some answer =>
    obtain ⟨rest, hs, -⟩ := takeReadAnswer_eq_some ht
    exact absurd hs (h _ rest)

theorem takeWriteAnswer_eq_none {s : State} (h : ∀ r rest, s.script ≠ .writeAnswer r :: rest) :
    takeWriteAnswer s = none := by
  cases ht : takeWriteAnswer s with
  | none => rfl
  | some answer =>
    obtain ⟨rest, hs, -⟩ := takeWriteAnswer_eq_some ht
    exact absurd hs (h _ rest)

section Sequences

variable (a : RegAddr) (g : Byte → Half) (view : Byte → Option RespView) (f : Byte → Byte) {s : State}

theorem readSeq_unanswered (hp : s.phase = .rdWait) (h : takeReadAnswer s = none) : readSeq a g view s = .next s := by
  simp only [readSeq, hp, h]

theorem readSeq_wrWait (hp : s.phase = .wrWait) : readSeq a g view s = .fault .readCommandInWriteWait := by
  simp only [readSeq, hp]

theorem rmwSeq_read_unanswered (hp : s.phase = .rdWait) (h : takeReadAnswer s = none) : rmwSeq a f s = .next s := by
  simp only [rmwSeq, hp, h]

theorem rmwSeq_write_unanswered (hp : s.phase = .wrWait) (h : takeWriteAnswer s = none) : rmwSeq a f s = .next s := by
  simp only [rmwSeq, hp, h]

theorem rmwSeq_no_new {r : WriteResult} {rest : List Event} (hp : s.phase = .wrWait) (hn : s.new = none)
    (hs : s.script = .writeAnswer r :: rest) : rmwSeq a f s = .fault (.latchHoldsNoValue .NEW) := by
  simp only [rmwSeq, hp, takeWriteAnswer_cons hs, takeEvent_new, hn, useLatch]

end Sequences

/-- A READ term of an index that names no register (R89). -/
theorem exec_read_refused {reg : RegIndex} (h : 10 < reg.toNat) (s : State) :
    exec (.read reg) s = .next (raiseRefused .REG s) :=
  if_neg fun hreg => Nat.not_lt.2 h (of_decide_eq_true hreg)

/-- An UPDATE term of an index that names no writable register (R89), REG before RO (R197). -/
theorem exec_update_refused {reg : RegIndex} (h : 7 < reg.toNat) (mask data : Byte) (s : State) :
    exec (.update reg mask data) s = .next (raiseRefused (if reg.toNat ≤ 10 then .RO else .REG) s) := by
  have hro : regWritable reg = false := decide_eq_false (Nat.not_lt.2 h)
  have hexists : regExists reg = decide (reg.toNat ≤ 10) := decide_eq_decide.2 Nat.lt_succ_iff
  simp only [exec, execUpdate, hexists, hro, decide_eq_true_eq, Bool.false_eq_true, if_false]
  split_ifs <;> rfl

/-- Settles O32, by the two sequences' equations where they wait or stop, and by the refusals of terms. -/
theorem commandsOutsideTheirEvents : Obligations.CommandsOutsideTheirEvents := by
  refine ⟨fun i s hw hc => ⟨fun hp hs => ?readWaits, fun hr hp hs => ?writeWaits, fun hr hp hn r rest hs => ?noNew,
    fun hr hp => ?noWrite⟩, fun reg s hreg => exec_read_refused hreg s, fun reg mask data s hreg => ?update⟩
  case readWaits =>
    have hnone := takeReadAnswer_eq_none hs
    cases hr : isRmw i with
    | true => rw [exec_rmw hw hr, rmwSeq_read_unanswered _ _ hp hnone]
    | false => rw [exec_read hw hc hr, readSeq_unanswered _ _ _ hp hnone]
  case writeWaits => rw [exec_rmw hw hr, rmwSeq_write_unanswered _ _ hp (takeWriteAnswer_eq_none hs)]
  case noNew => rw [exec_rmw hw hr, rmwSeq_no_new _ _ hp hn hs]
  case noWrite => rw [exec_read hw hc hr, readSeq_wrWait _ _ _ hp]
  case update =>
    rw [exec_update_refused hreg]
    split_ifs <;> rfl

/-! ## Whole runs (R152, R153, R162) -/

/-- A command that ends, seen from the idle state `s` it started in: besides the response and its count, only `T` and the
script have changed. -/
theorem endCommand_eq_of_idle {s t : State} {r : Resp} {trace : List Entry} {rest : List Event} (hp : s.phase = .idle)
    (hl : LatchesEmpty s) (hports : t.codecIn = s.codecIn ∧ t.codecOut = s.codecOut) (hk : t.hostIndex = s.hostIndex)
    (htrace : t.trace = trace) (hscript : t.script = rest) :
    endCommand r t =
      { s with script := rest, hostIndex := s.hostIndex + 1, resp := some r, trace := trace } := by
  obtain ⟨hcmd, hold, hnew⟩ := hl
  obtain ⟨hin, hout⟩ := hports
  simp only [endCommand, hp, hcmd, hold, hnew, hin, hout, hk, htrace, hscript]

/-- A run whose read fails, for a command of either kind. -/
theorem run_read_fails {s : State} {w : CmdWord} {i : Instr} {e : BusError} {rest : List Event} (hp : s.phase = .idle)
    (hl : LatchesEmpty s) (hd : decodeCommand w = .ok i) (hs : s.script = .accept w :: .readAnswer (.err e) :: rest) :
    run 2 s = .next { s with
      script := rest, hostIndex := s.hostIndex + 1, resp := some ⟨1#2, 0x0000#16, some e, none⟩
      trace := s.trace ++ [.rd 0x6B#7 (target i) (some (.err e))] } := by
  rw [run_next (Move.step_eq (m := .start w i _) ⟨hs, hp, hd⟩),
    run_next (Move.step_eq (m := .failRead i e rest) ⟨rfl, rfl, w, rfl, hd⟩), run_zero]
  exact congrArg _ (endCommand_eq_of_idle hp hl ⟨rfl, rfl⟩ rfl (replaceLast_concat _ _ _) rfl)

/-- Settles O35, by the two moves of the run. -/
theorem readRunIssuesOneTransaction : Obligations.ReadRunIssuesOneTransaction := by
  intro s w i rest hp hl hd hr
  refine ⟨fun b hs => ?succeeds, fun e hs => run_read_fails hp hl hd hs⟩
  case succeeds =>
    rw [run_next (Move.step_eq (m := .start w i _) ⟨hs, hp, hd⟩),
      run_next (Move.step_eq (m := .finishRead i b rest) ⟨rfl, rfl, ⟨w, rfl, hd⟩, hr⟩), run_zero]
    exact congrArg _ (endCommand_eq_of_idle hp hl ⟨rfl, rfl⟩ rfl (replaceLast_concat _ _ _) rfl)

/-- The state of an RMW run after its read's answer: WR_WAIT, with the byte computed and its write pending. -/
def writePending (s : State) (w : CmdWord) (i : Instr) (b : Byte) (rest : List Event) : State :=
  { s with
    phase := .wrWait, cmd := some w, old := some b, new := some (writtenByte i b), script := rest
    trace := s.trace ++ [.rd 0x6B#7 (target i) (some (.ok b)), .wr 0x6B#7 (target i) (writtenByte i b) none] }

section RmwRun

variable {s : State} {w : CmdWord} {i : Instr} {b : Byte} {rest : List Event}

/-- The first two moves of an RMW run. -/
theorem run_to_writePending {n : Nat} (hp : s.phase = .idle) (hd : decodeCommand w = .ok i) (hr : isRmw i = true)
    (hs : s.script = .accept w :: .readAnswer (.ok b) :: rest) :
    run (n + 2) s = run n (writePending s w i b rest) := by
  rw [run_next (Move.step_eq (m := .start w i _) ⟨hs, hp, hd⟩),
    run_next (Move.step_eq (m := .writeBack i b rest) ⟨rfl, rfl, ⟨w, rfl, hd⟩, hr⟩)]
  simp [Move.apply, writePending, issueWrite, setNew, setOld, settleRead, takeEvent, issueRead, latchCommand]

/-- A whole RMW run whose read is answered: the write is issued, and its answer ends the command (R152, R162). -/
theorem run_rmw {r : WriteResult} (hp : s.phase = .idle) (hl : LatchesEmpty s) (hd : decodeCommand w = .ok i)
    (hr : isRmw i = true) (hs : s.script = .accept w :: .readAnswer (.ok b) :: .writeAnswer r :: rest) :
    run 3 s = .next { s with
      script := rest, hostIndex := s.hostIndex + 1, resp := some (writeEnding r)
      trace := s.trace ++ [.rd 0x6B#7 (target i) (some (.ok b)),
        .wr 0x6B#7 (target i) (writtenByte i b) (some r)] } := by
  rw [run_to_writePending hp hd hr hs,
    run_next (Move.step_eq (m := .finishWrite i (writtenByte i b) r rest) ⟨rfl, rfl, ⟨w, rfl, hd⟩, hr, rfl⟩), run_zero]
  exact congrArg _ (endCommand_eq_of_idle hp hl ⟨rfl, rfl⟩ rfl (replaceLast_pair _ _ _ _) rfl)

end RmwRun

/-- Settles O34, by the moves of the run. -/
theorem rmwRunReadsThenWrites : Obligations.RmwRunReadsThenWrites := by
  intro s w i rest hp hl hd hr
  refine ⟨fun b r hs => ⟨?afterOne, ?afterTwo⟩, fun b hs => run_rmw hp hl hd hr hs, fun b e hs => run_rmw hp hl hd hr hs,
    fun e hs => run_read_fails hp hl hd hs⟩
  case afterOne => exact ⟨_, run_next (Move.step_eq (m := .start w i _) ⟨hs, hp, hd⟩), rfl, rfl⟩
  case afterTwo => exact ⟨_, run_to_writePending hp hd hr hs, rfl, rfl, rfl, rfl⟩

end Sys2Proof.Machine
end

section
/-! PROOFS. Transport errors are opaque (R8, R190). Renaming the errors of a state commutes with each operation of SEQ,
so with the two sequences, with the command SEQ resumes, and with the step of each event. -/

namespace Sys2Proof.Machine

variable (f : BusError → BusError) (s : State)

/-! ## Renaming and the operations of the state -/

@[simp] theorem rename_cmd : (s.rename f).cmd = s.cmd := rfl
theorem rename_codecIn : (s.rename f).codecIn = s.codecIn := rfl

@[simp] theorem renameOutcome_next : renameOutcome f (.next s) = .next (s.rename f) := rfl
@[simp] theorem renameOutcome_fault (r : Fault) : renameOutcome f (.fault r) = .fault r := rfl
@[simp] theorem renameOutcome_refused (r : Refusal) : renameOutcome f (.refused r) = .refused r := rfl

@[simp] theorem map_rename_replaceLast (t : List Entry) (e : Entry) :
    (replaceLast t e).map (Entry.rename f) = replaceLast (t.map (Entry.rename f)) (e.rename f) := by
  simp [replaceLast, List.map_dropLast]

@[simp] theorem rename_issueRead (a : RegAddr) : (issueRead a s).rename f = issueRead a (s.rename f) := by
  simp [State.rename, issueRead, Entry.rename]

@[simp] theorem rename_issueWrite (a : RegAddr) (v : Byte) :
    (issueWrite a v s).rename f = issueWrite a v (s.rename f) := by
  simp [State.rename, issueWrite, Entry.rename]

@[simp] theorem rename_settleRead (a : RegAddr) (r : ReadResult) :
    (settleRead a r s).rename f = settleRead a (r.rename f) (s.rename f) := by
  simp [State.rename, settleRead, Entry.rename]

@[simp] theorem rename_settleWrite (a : RegAddr) (v : Byte) (r : WriteResult) :
    (settleWrite a v r s).rename f = settleWrite a v (r.rename f) (s.rename f) := by
  simp [State.rename, settleWrite, Entry.rename]

@[simp] theorem rename_takeEvent (rest : List Event) :
    (takeEvent rest s).rename f = takeEvent (rest.map (Event.rename f)) (s.rename f) := rfl
@[simp] theorem rename_setOld (b : Byte) : (setOld b s).rename f = setOld b (s.rename f) := rfl
@[simp] theorem rename_setNew (v : Byte) : (setNew v s).rename f = setNew v (s.rename f) := rfl
@[simp] theorem rename_latchCommand (w : CmdWord) : (latchCommand w s).rename f = latchCommand w (s.rename f) := rfl
@[simp] theorem rename_resetSeq : (resetSeq s).rename f = resetSeq (s.rename f) := rfl
@[simp] theorem rename_presentCodec (o : CodecOut) : (presentCodec o s).rename f = presentCodec o (s.rename f) := rfl
@[simp] theorem rename_endCommand (r : Resp) : (endCommand r s).rename f = endCommand (r.rename f) (s.rename f) := rfl

@[simp] theorem ReadResult.rename_ok (b : Byte) : (ReadResult.ok b).rename f = .ok b := rfl
@[simp] theorem ReadResult.rename_err (e : BusError) : (ReadResult.err e).rename f = .err (f e) := rfl
@[simp] theorem WriteResult.rename_ok : WriteResult.ok.rename f = .ok := rfl
@[simp] theorem WriteResult.rename_err (e : BusError) : (WriteResult.err e).rename f = .err (f e) := rfl

@[simp] theorem Resp.rename_of_no_error (status : BitVec 2) (data : Half) (view : Option RespView) :
    (Resp.mk status data none view).rename f = ⟨status, data, none, view⟩ := rfl

@[simp] theorem Resp.rename_of_error (status : BitVec 2) (data : Half) (e : BusError) (view : Option RespView) :
    (Resp.mk status data (some e) view).rename f = ⟨status, data, some (f e), view⟩ := rfl

variable {s}

theorem rename_script {e : Event} {rest : List Event} (h : s.script = e :: rest) :
    (s.rename f).script = e.rename f :: rest.map (Event.rename f) :=
  congrArg (List.map (Event.rename f)) h

/-! ## The two sequences -/

theorem takeReadAnswer_rename_none (h : takeReadAnswer s = none) : takeReadAnswer (s.rename f) = none := by
  refine takeReadAnswer_eq_none fun r rest hs => ?_
  obtain ⟨e, tail, hscript, he, -⟩ := List.map_eq_cons_iff.1 hs
  cases e with
  | readAnswer r' => simp [takeReadAnswer_cons hscript] at h
  | accept w | writeAnswer r' | reset | codec fn ins => cases he

theorem takeWriteAnswer_rename_none (h : takeWriteAnswer s = none) : takeWriteAnswer (s.rename f) = none := by
  refine takeWriteAnswer_eq_none fun r rest hs => ?_
  obtain ⟨e, tail, hscript, he, -⟩ := List.map_eq_cons_iff.1 hs
  cases e with
  | writeAnswer r' => simp [takeWriteAnswer_cons hscript] at h
  | accept w | readAnswer r' | reset | codec fn ins => cases he

/-- The read sequence answers a read's error as it answers any other. -/
theorem readSeq_rename (a : RegAddr) (g : Byte → Half) (view : Byte → Option RespView) :
    readSeq a g view (s.rename f) = renameOutcome f (readSeq a g view s) := by
  cases hp : s.phase with
  | idle => rw [readSeq_idle _ _ _ hp, readSeq_idle (s := s.rename f) _ _ _ hp]; simp
  | wrWait => rw [readSeq_wrWait _ _ _ hp, readSeq_wrWait (s := s.rename f) _ _ _ hp]; rfl
  | rdWait =>
    cases ht : takeReadAnswer s with
    | none =>
      rw [readSeq_unanswered _ _ _ hp ht,
        readSeq_unanswered (s := s.rename f) _ _ _ hp (takeReadAnswer_rename_none f ht)]
      rfl
    | some answer =>
      obtain ⟨r, s1⟩ := answer
      obtain ⟨rest, hs, -⟩ := takeReadAnswer_eq_some ht
      cases r with
      | ok b => rw [readSeq_ok _ _ _ hp hs, readSeq_ok (s := s.rename f) _ _ _ hp (rename_script f hs)]; simp
      | err e => rw [readSeq_err _ _ _ hp hs, readSeq_err (s := s.rename f) _ _ _ hp (rename_script f hs)]; simp

/-- The RMW sequence answers an error of its read or its write as it answers any other. -/
theorem rmwSeq_rename (a : RegAddr) (g : Byte → Byte) :
    rmwSeq a g (s.rename f) = renameOutcome f (rmwSeq a g s) := by
  cases hp : s.phase with
  | idle => rw [rmwSeq_idle _ _ hp, rmwSeq_idle (s := s.rename f) _ _ hp]; simp
  | rdWait =>
    cases ht : takeReadAnswer s with
    | none =>
      rw [rmwSeq_read_unanswered _ _ hp ht,
        rmwSeq_read_unanswered (s := s.rename f) _ _ hp (takeReadAnswer_rename_none f ht)]
      rfl
    | some answer =>
      obtain ⟨r, s1⟩ := answer
      obtain ⟨rest, hs, -⟩ := takeReadAnswer_eq_some ht
      cases r with
      | ok b => rw [rmwSeq_read_ok _ _ hp hs, rmwSeq_read_ok (s := s.rename f) _ _ hp (rename_script f hs)]; simp
      | err e =>
        rw [rmwSeq_read_err _ _ hp hs, rmwSeq_read_err (s := s.rename f) _ _ hp (rename_script f hs)]; simp
  | wrWait =>
    cases ht : takeWriteAnswer s with
    | none =>
      rw [rmwSeq_write_unanswered _ _ hp ht,
        rmwSeq_write_unanswered (s := s.rename f) _ _ hp (takeWriteAnswer_rename_none f ht)]
      rfl
    | some answer =>
      obtain ⟨r, s1⟩ := answer
      obtain ⟨rest, hs, -⟩ := takeWriteAnswer_eq_some ht
      have hs' := rename_script f hs
      cases hn : s.new with
      | none => rw [rmwSeq_no_new _ _ hp hn hs, rmwSeq_no_new (s := s.rename f) _ _ hp hn hs']; rfl
      | some v =>
        cases r with
        | ok => rw [rmwSeq_write_ok _ _ hp hn hs, rmwSeq_write_ok (s := s.rename f) _ _ hp hn hs']; simp
        | err e => rw [rmwSeq_write_err _ _ hp hn hs, rmwSeq_write_err (s := s.rename f) _ _ hp hn hs']; simp

/-! ## Commands, CODEC functions and the step -/

theorem exec_command_rename {w : CmdWord} {i : Instr} (hd : decodeCommand w = .ok i) :
    exec i (s.rename f) = renameOutcome f (exec i s) := by
  obtain ⟨hw, hc⟩ := decodeCommand_ok_command hd
  cases hr : isRmw i with
  | true => rw [exec_rmw hw hr, exec_rmw hw hr, rmwSeq_rename]
  | false => rw [exec_read hw hc hr, exec_read hw hc hr, readSeq_rename]

theorem exec_codec_rename {i : Instr} (hc : isCommand i = false) :
    exec i (s.rename f) = renameOutcome f (exec i s) := by
  obtain ⟨o, ho⟩ := exec_codec hc s
  have ho' : exec i (s.rename f) = .next (presentCodec o (s.rename f)) :=
    exec_codec_congr hc (rename_codecIn f s).symm ho
  rw [ho, ho', renameOutcome_next, rename_presentCodec]

theorem resume_rename : resume (s.rename f) = renameOutcome f (resume s) := by
  cases hc : s.cmd with
  | none => simp [resume, hc, useLatch]
  | some w =>
    cases hd : decodeCommand w with
    | error c => simp [resume, hc, useLatch, hd]
    | ok i => rw [resume_ok hc hd, resume_ok (s := s.rename f) hc hd, exec_command_rename f hd]

/-- Settles O57, by the next event: what the step does with it commutes with the renaming. -/
theorem errorsAreOpaque : Obligations.ErrorsAreOpaque := by
  intro f s
  cases hs : s.script with
  | nil => rw [step_nil hs, step_nil (s := s.rename f) (congrArg (List.map (Event.rename f)) hs), renameOutcome_next]
  | cons e rest =>
    have hs' := rename_script f hs
    cases e with
    | accept w =>
      by_cases hp : s.phase = .idle
      · cases hd : decodeCommand w with
        | error c => rw [step_accept_refused hs hp hd, step_accept_refused hs' hp hd]; simp
        | ok i =>
          rw [step_accept hs hp hd, step_accept hs' hp hd, ← exec_command_rename f hd, rename_latchCommand,
            rename_takeEvent]
      · rw [step_accept_busy hs hp, step_accept_busy hs' hp, renameOutcome_fault]
    | readAnswer r =>
      by_cases hp : s.phase = .rdWait
      · rw [step_readAnswer hs hp, step_readAnswer hs' hp, resume_rename]
      · rw [step_readAnswer_late hs hp, step_readAnswer_late hs' hp, renameOutcome_next, rename_takeEvent]
    | writeAnswer r =>
      by_cases hp : s.phase = .wrWait
      · rw [step_writeAnswer hs hp, step_writeAnswer hs' hp, resume_rename]
      · rw [step_writeAnswer_late hs hp, step_writeAnswer_late hs' hp, renameOutcome_next, rename_takeEvent]
    | reset => rw [step_reset hs, step_reset hs', renameOutcome_next, rename_resetSeq, rename_takeEvent]
    | codec fn ins =>
      cases hd : decodeFn fn with
      | error c => rw [step_codec_reserved hs hd, step_codec_reserved hs' hd, renameOutcome_refused]
      | ok i => rw [step_codec hs hd, step_codec hs' hd, ← exec_codec_rename f (decodeFn_ok_codec hd)]; rfl

end Sys2Proof.Machine
end

section
/-! PROOFS. How a command ends early and when the machine stops (60_exceptions.md). A state that meets `SeqInv` has a
move at every event but the two the host must not bring about, and the moves of a refused word and of a transport error
end the command. -/

namespace Sys2Proof.Machine

/-! ## Refused words and transport errors (R190, R192) -/

/-- Settles O41: a refused word ends with the number of its code. -/
theorem refusedWordGetsItsCode : Obligations.RefusedWordGetsItsCode := by
  intro w c hd
  cases c with
  | OPCODE | FORMAT | REG | RO => exact wordRefused_of_decode hd

/-- In RD_WAIT the latch holds a command. -/
theorem SeqInv.latched_of_rdWait {s : State} (h : SeqInv s) (hp : s.phase = .rdWait) : ∃ i, Latched i s := by
  simp only [SeqInv, hp] at h
  obtain ⟨w, i, hc, hd, -⟩ := h
  exact ⟨i, w, hc, hd⟩

/-- In WR_WAIT the latches hold an RMW command and the byte it writes. -/
theorem SeqInv.latched_of_wrWait {s : State} (h : SeqInv s) (hp : s.phase = .wrWait) :
    ∃ i v, Latched i s ∧ isRmw i = true ∧ s.new = some v := by
  simp only [SeqInv, hp] at h
  obtain ⟨w, i, b, hc, hd, hr, -, hn, -⟩ := h
  exact ⟨i, writtenByte i b, ⟨w, hc, hd⟩, hr, hn⟩

/-- A move that ends a command and puts no request on the port, from a state SEQ can be in. -/
theorem Move.step_of_ending {m : Move} {s : State} {r : Resp} (h : SeqInv s) (hm : m.Enabled s)
    (hend : m.ending = some r) (hreq : m.requests = []) :
    ∃ t, step s = .next t ∧ t.resp = some r ∧ t.phase = .idle ∧ LatchesEmpty t ∧
      t.trace.map busRequest = s.trace.map busRequest := by
  obtain ⟨hresp, -, hp, hl⟩ := m.apply_of_ending hend s
  exact ⟨m.apply s, m.step_eq hm, hresp, hp, hl, by rw [m.requests_eq h hm, hreq, List.append_nil]⟩

/-- Settles O42, by the move that ends the command at its read and the one that ends it at its write. -/
theorem busErrorEndsCommand : Obligations.BusErrorEndsCommand := by
  rintro s e rest h (⟨hp, hs⟩ | ⟨hp, hs⟩)
  case inl =>
    obtain ⟨i, hi⟩ := h.latched_of_rdWait hp
    exact Move.step_of_ending (m := .failRead i e rest) h ⟨hs, hp, hi⟩ rfl rfl
  case inr =>
    obtain ⟨i, v, hi, hr, hn⟩ := h.latched_of_wrWait hp
    exact Move.step_of_ending (m := .finishWrite i v (.err e) rest) h ⟨hs, hp, hi, hr, hn⟩ rfl rfl

/-! ## Answered and unanswered commands (R196, R205, R240) -/

/-- After `n` steps the command is over, with one response. -/
def EndsIn (n : Nat) (s : State) : Prop :=
  ∃ t, run n s = .next t ∧ t.phase = .idle ∧ LatchesEmpty t ∧ t.resp ≠ none ∧ t.hostIndex = s.hostIndex + 1

theorem endsIn_one {m : Move} {s : State} {r : Resp} (hm : m.Enabled s) (hend : m.ending = some r) : EndsIn 1 s := by
  obtain ⟨hresp, hk, hp, hl⟩ := m.apply_of_ending hend s
  exact ⟨m.apply s, run_next (m.step_eq hm), hp, hl, by simp [hresp], hk⟩

theorem endsIn_succ {m : Move} {s : State} {n : Nat} (hm : m.Enabled s) (hend : m.ending = none)
    (h : EndsIn n (m.apply s)) : EndsIn (n + 1) s := by
  obtain ⟨t, hrun, hp, hl, hresp, hk⟩ := h
  exact ⟨t, (run_next (m.step_eq hm)).trans hrun, hp, hl, hresp, by rw [hk, (m.apply_of_no_ending hend s).1]⟩

/-- Settles O48: one event for a refused word, two for a failed read or a read command, three for an RMW command. -/
theorem answeredCommandEnds : Obligations.AnsweredCommandEnds := by
  intro s w r1 r2 rest hp hs
  suffices hends : ∃ n, 1 ≤ n ∧ n ≤ 3 ∧ EndsIn n s by
    obtain ⟨n, hlo, hhi, t, ht⟩ := hends
    exact ⟨n, t, hlo, hhi, ht⟩
  cases hd : decodeCommand w with
  | error c => exact ⟨1, by decide, by decide, endsIn_one (m := .refuse w c _) ⟨hs, hp, hd⟩ rfl⟩
  | ok i =>
    have starts {n : Nat} := endsIn_succ (m := .start w i _) (n := n) ⟨hs, hp, hd⟩ rfl
    cases r1 with
    | err e =>
      refine ⟨2, by decide, by decide, starts (endsIn_one (m := .failRead i e (.writeAnswer r2 :: rest)) ?_ rfl)⟩
      exact ⟨rfl, rfl, w, rfl, hd⟩
    | ok b =>
      cases hr : isRmw i with
      | false =>
        refine ⟨2, by decide, by decide, starts (endsIn_one (m := .finishRead i b (.writeAnswer r2 :: rest)) ?_ rfl)⟩
        exact ⟨rfl, rfl, ⟨w, rfl, hd⟩, hr⟩
      | true =>
        refine ⟨3, by decide, by decide, starts (endsIn_succ (m := .writeBack i b (.writeAnswer r2 :: rest)) ?writes rfl
          (endsIn_one (m := .finishWrite i (writtenByte i b) r2 rest) ?ends rfl))⟩
        case writes => exact ⟨rfl, rfl, ⟨w, rfl, hd⟩, hr⟩
        case ends => exact ⟨rfl, rfl, ⟨w, rfl, hd⟩, hr, rfl⟩

/-- Settles O47, by induction on the number of steps. -/
theorem unansweredStaysForever : Obligations.UnansweredStaysForever := by
  intro s n hs
  induction n with
  | zero => exact run_zero s
  | succ n ih => exact (run_next (step_nil hs)).trans ih

/-! ## When the machine stops (R205, R136) -/

/-- CODEC rejects a reserved select only (R136). -/
theorem le_toNat_of_decodeFn_error {fn : FnSel} {r : CodecReject} (h : decodeFn fn = .error r) : 0xC ≤ fn.toNat := by
  unfold decodeFn at h
  split at h
  case h_13 => grind
  all_goals cases h

/-- A state SEQ can be in has a move at every event but a command in progress or a reserved select. -/
theorem SeqInv.exists_move {s : State} (h : SeqInv s) (hbusy : ¬ HostBreaksDuty s) (hsel : ¬ HostSelectsReserved s) :
    ∃ m : Move, m.Enabled s := by
  cases hs : s.script with
  | nil => exact ⟨.stay, hs⟩
  | cons e rest =>
    cases e with
    | accept w =>
      have hp : s.phase = .idle := by_contra fun hp => hbusy ⟨hp, w, rest, hs⟩
      cases hd : decodeCommand w with
      | error c => exact ⟨.refuse w c rest, hs, hp, hd⟩
      | ok i => exact ⟨.start w i rest, hs, hp, hd⟩
    | readAnswer r =>
      by_cases hp : s.phase = .rdWait
      · obtain ⟨i, hi⟩ := h.latched_of_rdWait hp
        cases r with
        | err e => exact ⟨.failRead i e rest, hs, hp, hi⟩
        | ok b =>
          cases hr : isRmw i with
          | false => exact ⟨.finishRead i b rest, hs, hp, hi, hr⟩
          | true => exact ⟨.writeBack i b rest, hs, hp, hi, hr⟩
      · exact ⟨.dropAnswer _ rest, hs, hp⟩
    | writeAnswer r =>
      by_cases hp : s.phase = .wrWait
      · obtain ⟨i, v, hi, hr, hn⟩ := h.latched_of_wrWait hp
        exact ⟨.finishWrite i v r rest, hs, hp, hi, hr, hn⟩
      · exact ⟨.dropAnswer _ rest, hs, hp⟩
    | reset => exact ⟨.reset rest, hs⟩
    | codec fn ins =>
      cases hd : decodeFn fn with
      | error r => exact absurd ⟨fn, ins, rest, hs, le_toNat_of_decodeFn_error hd⟩ hsel
      | ok i =>
        obtain ⟨o, ho⟩ := exec_codec (decodeFn_ok_codec hd) (driveCodec ins rest s)
        exact ⟨.codec fn ins o rest, hs, i, hd, ho⟩

/-- What a step from a state SEQ can be in answers. -/
theorem SeqInv.step_outcome {s : State} (h : SeqInv s) :
    (HostBreaksDuty s ∧ step s = .fault .commandWhileBusy) ∨
    (HostSelectsReserved s ∧ ∃ fn, step s = .refused (.codecFunctionReserved fn)) ∨ ∃ t, step s = .next t := by
  by_cases hbusy : HostBreaksDuty s
  · have ⟨hp, w, rest, hs⟩ := hbusy
    exact .inl ⟨hbusy, step_accept_busy hs hp⟩
  by_cases hsel : HostSelectsReserved s
  · have ⟨fn, ins, rest, hs, hfn⟩ := hsel
    exact .inr (.inl ⟨hsel, fn, reservedSelectIsRefused s fn ins rest hfn hs⟩)
  · obtain ⟨m, hm⟩ := h.exists_move hbusy hsel
    exact .inr (.inr ⟨m.apply s, m.step_eq hm⟩)

/-- Settles O54: a step answers one of the three outcomes, each with its cause. -/
theorem onlyTheHostStopsTheMachine : Obligations.OnlyTheHostStopsTheMachine := by
  intro s h
  rcases h.step_outcome with ⟨hbusy, hstep⟩ | ⟨hsel, fn, hstep⟩ | ⟨t, hstep⟩
  · simp [hstep, hbusy]
  · simp [hstep, hsel]
  · simp [hstep]

end Sys2Proof.Machine
end

section
/-! PROOFS. Reset in every phase, and a GET after a SET of the charge current (70_reset_and_hazards.md). -/

namespace Sys2Proof.Machine

/-! ## Set then get (R237) -/

/-- What GET_ICHG_MA reports of a byte is the decoded code converted to milliamps (R160). -/
theorem resultData_getIchgMa_eq_ichgToMa (b : Byte) : resultData .getIchgMa b = ichgToMa (decCcc b).ichg := by
  rw [resultData, ichgToMa, decCcc, Nat.mul_comm, Nat.add_comm]

/-- The code set in a byte is the code decoded from it (R133, R137). -/
theorem decCcc_setField_ichg (c : IchgCode) (b : Byte) : (decCcc (setField (.ccc (.ichg c)) b)).ichg = c := by
  rw [setField, decCcc_encCcc, CccSet.apply]

/-- GET_ICHG_MA undoes SET_ICHG_MA up to the two conversions: the other bits of the byte do not matter (R237). -/
theorem resultData_writtenByte_setIchgMa (m : Half) (b : Byte) :
    resultData .getIchgMa (writtenByte (.setIchgMa m) b) = ichgToMa (maToIchg m) := by
  rw [← setField_ichg_maToIchg, resultData_getIchgMa_eq_ichgToMa, decCcc_setField_ichg]

/-- Settles O38: the byte SET writes reads back as the two conversions of the operand, which clamp and round down. -/
theorem setThenGetRoundsDown : Obligations.SetThenGetRoundsDown := by
  intro m s b rest hp hs
  refine ⟨_, writtenByte (.setIchgMa m) b, exec_rmw_read_ok rfl rfl hp hs, rfl, fun u more hpu hsu => ?get⟩
  case get =>
    obtain ⟨-, hends, -⟩ := runsReadSequence (i := .getIchgMa) rfl rfl rfl
    have hdata : (resultData .getIchgMa (writtenByte (.setIchgMa m) b)).toNat = clampedCode m.toNat * 64 + 512 := by
      rw [resultData_writtenByte_setIchgMa, ichgToMa_toNat, maToIchg_toNat]
    refine ⟨_, _, hends u _ more hpu hsu, rfl, ?closedForm, ?roundsDown⟩
    case closedForm => rw [hdata, clampedCode, Nat.mul_comm, Nat.add_comm]
    case roundsDown => exact hdata.trans_le (milliamps_clampedCode_le m.toNat)

/-! ## Reset (R220) -/

/-- Settles O44: the step's equation for the event asks nothing of the phase. (`resetEvent` is the model's.) -/
theorem resetEvent_in_every_phase : Obligations.ResetEvent := fun _ _ => step_reset

end Sys2Proof.Machine
end

section
/-! PROOFS. What comes next (30_encoding.md sections 1 and 3; 42_sequencer.md R154, R155): an instruction the model places
runs at the very next step, and the events a phase does not have. Placing in a wait phase is placing in the idle state
(`presentSpelling_of_busy`), so each port has one argument. -/

namespace Sys2Proof.Machine

/-! ## Placing an instruction (R80, R92) -/

/-- A 32-bit number spells its word on the command port. -/
theorem withFetchWord_command (s : State) (w : CmdWord) :
    s.withFetchWord 32 w.toNat = presentSpelling (.command w) s := by
  have hsp : tableSpelling 32 w.toNat = some (.command w) := by
    rw [tableSpelling, if_neg (by decide), if_pos w.isLt, BitVec.ofNat_toNat, BitVec.setWidth_eq]
  rw [State.withFetchWord, hsp]

/-- A number of one byte spells its select on CODEC's function port. -/
theorem withFetchWord_codec (s : State) (fn : FnSel) : s.withFetchWord 8 fn.toNat = presentSpelling (.codec fn) s := by
  have hsp : tableSpelling 8 fn.toNat = some (.codec fn) := by
    rw [tableSpelling, if_pos (by decide), if_pos fn.isLt, BitVec.ofNat_toNat, BitVec.setWidth_eq]
  rw [State.withFetchWord, hsp]

/-- In IDLE only the script changes. -/
theorem presentSpelling_of_idle {s : State} (hp : s.phase = .idle) (sp : Spelling) :
    presentSpelling sp s = { s with script := spellingEvent sp s :: s.script } := by
  simp only [presentSpelling, hp]

/-- In a wait phase the command in progress is abandoned first; the ports stay as they are driven. -/
theorem presentSpelling_of_busy {s : State} (hp : s.phase ≠ .idle) (sp : Spelling) :
    presentSpelling sp s = presentSpelling sp { s with phase := .idle, cmd := none, old := none, new := none } := by
  cases hq : s.phase with
  | idle => exact absurd hq hp
  | rdWait | wrWait => simp only [presentSpelling, hq, spellingEvent]

/-- The select of a CODEC function names it (R92). -/
theorem decodeFn_of_encode {i : Instr} {fn : FnSel} (he : encode i = .codec fn) : decodeFn fn = .ok i := by
  cases i with
  | read | update | disableWatchdog | resetWatchdog | status | newFault | getIchgMa | setIchgMa => cases he
  | _ => cases he; rfl

/-- A command's word presented in IDLE is accepted. -/
theorem step_presentSpelling_command {s : State} {i : Instr} {w : CmdWord} (hw : i.wellFormed = true)
    (he : encode i = .command w) (hp : s.phase = .idle) :
    step (presentSpelling (.command w) s) = exec i { s with cmd := some w } := by
  rw [presentSpelling_of_idle hp]
  exact step_accept rfl hp (decodeCommand_eq_ok_iff.2 ⟨hw, he⟩)

/-- A CODEC select presented in IDLE runs on the ports as they stand. -/
theorem step_presentSpelling_codec {s : State} {i : Instr} {fn : FnSel} (he : encode i = .codec fn)
    (hp : s.phase = .idle) : step (presentSpelling (.codec fn) s) = exec i s := by
  rw [presentSpelling_of_idle hp]
  exact step_codec rfl (decodeFn_of_encode he)

/-- Settles O9: the number spells the instruction, and from a wait phase it is presented to the idle state. -/
theorem presentedInstructionRunsNext : Obligations.PresentedInstructionRunsNext := by
  refine ⟨fun s i w hw he hp => ?commandIdle, fun s i w hw he hp => ?commandBusy, fun s i fn he hp => ?codecIdle,
    fun s i fn he hp => ?codecBusy⟩
  case commandIdle => rw [withFetchWord_command, step_presentSpelling_command hw he hp]
  case commandBusy => rw [withFetchWord_command, presentSpelling_of_busy hp, step_presentSpelling_command hw he rfl]
  case codecIdle => rw [withFetchWord_codec, step_presentSpelling_codec he hp]
  case codecBusy => rw [withFetchWord_codec, presentSpelling_of_busy hp, step_presentSpelling_codec he rfl]

/-! ## Events a phase does not have (R154, R155, R205, R221) -/

/-- Settles O40, by the equation of the step for a word presented in a wait phase. -/
theorem busyCommandFaults : Obligations.BusyCommandFaults := fun _ _ _ hp hs => step_accept_busy hs hp

/-- Settles O46, by the equations of the step for the two late answers. -/
theorem lateAnswersChangeNothing : Obligations.LateAnswersChangeNothing :=
  ⟨fun _ _ _ hp hs => step_readAnswer_late hs hp, fun _ _ _ hp hs => step_writeAnswer_late hs hp⟩

end Sys2Proof.Machine
end
